-- ==== Sys2Proof/Word.lean ====
section
/-! DEFINITION. The word, byte and subkey-array types (R67, R12, R27). -/

namespace Sys2Proof

/-- A word: 16 bits, unsigned (R67). -/
abbrev Word := BitVec 16

/-- A byte of a message, a key or a block: 8 bits, unsigned (R67). -/
abbrev Byte := BitVec 8

/-- The subkey array: 22 words, indices 0..21, lane `i` holding `sk[i]` (R12, R27, R56). -/
abbrev SubkeyArray := Vector Word 22

end Sys2Proof
end

