-- ==== Sys2Proof/Config.lean ====
section
/-! DEFINITION. What an implementation fixes: the cipher's fixed parameters (R8), the open parameters (R9), which have no
body so that nothing can be proved of their values, and the free schedule of a host that has stopped (R131). -/

namespace Sys2Proof

/-- KS_ITER: the key schedule's loop runs for i = 0..20 (R8, R78). -/
def Config.ksIterations : Nat := 21

/-- ALPHA: the right rotation of the left word, and of `l[i]` in the key schedule (R8). -/
def Config.alpha : Nat := 7

/-- BETA: the left rotation of the right word, and of the subkey in the key schedule (R8). -/
def Config.beta : Nat := 2

/-- PAD_MARKER (R8). -/
def Config.padMarker : Byte := 0x80

/-- PAD_FILL (R8). -/
def Config.padFill : Byte := 0x00

/-- BLOCK_BYTES (R8). -/
def Config.blockBytes : Nat := 4

/-- MAX_LEN of this implementation: UNPAD's capacity in bytes, OPEN (R9, D8). DESIGN CHOICE, safe: a constant with no
body. `State.maxLen` carries the parameter; this is only its value in the launch state (log entry 1). -/
opaque Config.maxLen : Nat

/-- The edges LAT_KS takes beyond the one it takes at least (R9, D4): LAT_KS = extra + 1, free in the operand. Only the
cycle-level form (Machine/Cycle.lean) uses the latencies (log entry 8). -/
opaque Config.latKsExtra : BitVec 64 → Nat

/-- LAT_ENC - 1 (R9, D4), free in the operands. -/
opaque Config.latEncExtra : BitVec 32 → SubkeyArray → Nat

/-- LAT_DEC - 1 (R9, D4), free in the operands. -/
opaque Config.latDecExtra : BitVec 32 → SubkeyArray → Nat

/-- LAT_UNPAD - 1 (R9, D4), free in the operands. -/
opaque Config.latUnpadExtra : List Byte → Nat → Nat

/-- How many edges of the free schedule pass before unit number `u` (0 KS, 1 ENC, 2 DEC, 3 UNPAD) is let complete for the
`k`-th time, since the time before. R131 leaves the moment open but has it come, so each wait is a free value, a natural
number of which nothing is known (DESIGN CHOICE, safe: log entries 7 and 16). -/
opaque Config.freeWait : (u : Nat) → (k : Nat) → Nat

end Sys2Proof
end

