-- ==== Sys2Proof/Machine/Operands.lean ====
section
/-! DEFINITION. The operand and result formats KEY64, BLK32, SKA, MSG and LEN (R53 to R58), the byte orders of key and
block (R34, R35), and the packing of lanes into flat vectors. -/

namespace Sys2Proof.Machine

/-! ### Lanes and flat vectors (R56, R57) -/

/-- The flat vector of a list of `w`-bit lanes: lane `j` in bits `[w*j + w - 1 : w*j]`. -/
def packLanes (w : Nat) : List (BitVec w) → Nat
  | [] => 0
  | x :: xs => x.toNat + 2 ^ w * packLanes w xs

/-- The first `n` lanes of `w` bits of a flat vector. -/
def unpackLanes (w : Nat) : (n : Nat) → (v : Nat) → List (BitVec w)
  | 0, _ => []
  | n + 1, v => BitVec.ofNat w v :: unpackLanes w n (v / 2 ^ w)

/-- What is left of a flat vector above its first `n` lanes of `w` bits. -/
def aboveLanes (w : Nat) : (n : Nat) → (v : Nat) → Nat
  | 0, v => v
  | n + 1, v => aboveLanes w n (v / 2 ^ w)

theorem unpackLanes_length (w n v : Nat) : (unpackLanes w n v).length = n := by
  induction n generalizing v with
  | zero => rfl
  | succ n ih => simp [unpackLanes, ih]

/-! ### KEY64 (R34, R54) -/

/-- `k0 = key[15:0]` (R54). -/
def keyK0 (key : BitVec 64) : Word := key.extractLsb' 0 16
/-- `k1 = key[31:16]` (R54). -/
def keyK1 (key : BitVec 64) : Word := key.extractLsb' 16 16
/-- `k2 = key[47:32]` (R54). -/
def keyK2 (key : BitVec 64) : Word := key.extractLsb' 32 16
/-- `k3 = key[63:48]` (R54). -/
def keyK3 (key : BitVec 64) : Word := key.extractLsb' 48 16

/-- A word from two bytes, the first the high one (R34, R35: big-endian). -/
def wordOfBytes (hi lo : Byte) : Word := hi ++ lo

/-- The key port's value for key bytes `K[0..7]`: `K[0]` in bits [63:56] down to `K[7]` in [7:0] (R54). -/
def keyOfBytes (b0 b1 b2 b3 b4 b5 b6 b7 : Byte) : BitVec 64 := b0 ++ b1 ++ b2 ++ b3 ++ b4 ++ b5 ++ b6 ++ b7

/-! ### BLK32 (R35, R55) -/

/-- `p1 = blk[31:16]` (R55). -/
def blockP1 (blk : BitVec 32) : Word := blk.extractLsb' 16 16
/-- `p2 = blk[15:0]` (R55). -/
def blockP2 (blk : BitVec 32) : Word := blk.extractLsb' 0 16
/-- `blk = (p1, p2)` concatenated, `p1` in the high bits (R10, R55). -/
def blockOfWords (p1 p2 : Word) : BitVec 32 := p1 ++ p2

/-- The block port's value for block bytes `B[0..3]`: `B[0]` in bits [31:24] down to `B[3]` in [7:0] (R55). -/
def blockOfBytes (b0 b1 b2 b3 : Byte) : BitVec 32 := b0 ++ b1 ++ b2 ++ b3

/-- Byte `B[0]` to `B[3]` of a block port's value, in order (R35, R55). -/
def bytesOfBlock (blk : BitVec 32) : List Byte :=
  [blk.extractLsb' 24 8, blk.extractLsb' 16 8, blk.extractLsb' 8 8, blk.extractLsb' 0 8]

/-! ### SKA (R56) -/

/-- The flat 352-bit value of a subkey array: `ska[16i+15:16i] = sk[i]` (R56). -/
def packSka (sk : SubkeyArray) : Nat := packLanes 16 sk.toList

/-- The subkey array whose flat value is the low 352 bits of `v` (R56). -/
def unpackSka (v : Nat) : SubkeyArray :=
  ⟨(unpackLanes 16 22 v).toArray, by simp [unpackLanes_length]⟩

/-! ### MSG and LEN (R9, R57, R58) -/

/-- `LEN_W = max(1, ceil(log2(MAX_LEN + 1)))`, the least width that holds MAX_LEN (R9): the number of binary digits of
MAX_LEN, and 1 for MAX_LEN = 0. -/
def lenW (maxLen : Nat) : Nat := Nat.log2 maxLen + 1

/-- The value an `n`-bit port or field carries when driven with `v`: its low `n` bits. -/
def lowBits (n v : Nat) : Nat := v % 2 ^ n

/-- The `MAX_LEN` lanes of a message port driven with the bytes `msg` (R57): lane `j` is byte `j`. A list that is too
short stands for the vector whose other lanes are 0, and bytes past lane MAX_LEN - 1 have no lane (log entry 10). -/
def lanesOf (maxLen : Nat) (msg : List Byte) : List Byte :=
  msg.take maxLen ++ List.replicate (maxLen - msg.length) 0

end Sys2Proof.Machine
end

