-- ==== Sys2Proof/Syntax.lean ====
section
/-! DEFINITION. The four operations (R51): one constructor per row of spec/opcode_table.json. -/

namespace Sys2Proof

/-- A transaction as data: an operation with its operand port values (R51, R52, R65). -/
inductive Instr where
  /-- `KSCHED <key>`: op 00, operand KEY64 (R81). -/
  | ksched (key : BitVec 64)
  /-- `ENC <block>, <sk>`: op 01, operands BLK32 and SKA (R92). -/
  | enc (pt : BitVec 32) (sk : SubkeyArray)
  /-- `DEC <block>, <sk>`: op 10, operands BLK32 and SKA (R93). -/
  | dec (ct : BitVec 32) (sk : SubkeyArray)
  /-- `UNPAD <msg>, <len>`: op 11, operands MSG (MAX_LEN lanes) and LEN (R103). -/
  | unpad (msg : List Byte) (len : Nat)
  deriving DecidableEq, Repr

end Sys2Proof
end

