-- ==== Sys2Proof/WellFormed.lean ====
section
/-! DEFINITION. Which terms of Instr are transactions: the operands have the widths of their ports (R52, R57, R58). -/

namespace Sys2Proof

/-- A message operand has exactly MAX_LEN lanes (R57). -/
def Instr.lanesOk (maxLen : Nat) : Instr → Bool
  | .ksched _ => true
  | .enc _ _ => true
  | .dec _ _ => true
  | .unpad msg _ => msg.length == maxLen

/-- A length operand fits its LEN_W bits (R58). A length above MAX_LEN that fits is well formed: it is the operand that
raises LengthOutOfRange. -/
def Instr.lenFits (maxLen : Nat) : Instr → Bool
  | .ksched _ => true
  | .enc _ _ => true
  | .dec _ _ => true
  | .unpad _ len => decide (len < 2 ^ Machine.lenW maxLen)

/-- A well-formed transaction for the capacity `maxLen`. -/
def Instr.wellFormed (maxLen : Nat) (i : Instr) : Bool := i.lanesOk maxLen && i.lenFits maxLen

end Sys2Proof
end

