-- ==== Sys2Proof/Decode.lean ====
section
/-! DEFINITION. The decoder and the encoder of transactions (R50 to R52). A transaction is one number: bits [1:0] are the
operation identifier, and the operand bits follow from bit 2 upwards. The spec gives the pair (op, operands) and each
operand's own bits, not their places in one flat number: the order below is the model's (DESIGN CHOICE, log entry 2). -/

namespace Sys2Proof

/-- The operation identifiers (R51). -/
inductive OpId where
  | ksched
  | enc
  | dec
  | unpad
  deriving DecidableEq, Repr

/-- The operation a 2-bit identifier names: every value is an operation (R51, R60). -/
def opIdOfBits (op : BitVec 2) : OpId :=
  if op = 0b00 then .ksched else if op = 0b01 then .enc else if op = 0b10 then .dec else .unpad

/-- The 2-bit identifier of an operation (R51). -/
def bitsOfOpId : OpId → BitVec 2
  | .ksched => 0b00
  | .enc => 0b01
  | .dec => 0b10
  | .unpad => 0b11

/-- The operation of a transaction. -/
def opIdOf : Instr → OpId
  | .ksched _ => .ksched
  | .enc _ _ => .enc
  | .dec _ _ => .dec
  | .unpad _ _ => .unpad

/-- How many operand bits an operation's transaction has (R52). -/
def operandBits (maxLen : Nat) : OpId → Nat
  | .ksched => 64
  | .enc => 32 + 16 * 22
  | .dec => 32 + 16 * 22
  | .unpad => 8 * maxLen + Machine.lenW maxLen

/-- Do operand bits fit their operation's size (R52)? Nothing may stand above the 64 bits of a key, above a block and 22
lanes, or above a length and MAX_LEN bytes. -/
def operandsFit (maxLen : Nat) (op : OpId) (bits : Nat) : Bool :=
  match op with
  | .ksched => decide (bits < 2 ^ 64)
  | .enc => decide (Machine.aboveLanes 16 22 (bits / 2 ^ 32) = 0)
  | .dec => decide (Machine.aboveLanes 16 22 (bits / 2 ^ 32) = 0)
  | .unpad => decide (Machine.lowBits (8 * maxLen + Machine.lenW maxLen) bits = bits)

/-- Why a number is no transaction. -/
inductive DecodeError where
  /-- The number has bits above those of its operation's transaction, whose size is fixed (R52). -/
  | oversize
  deriving DecidableEq, Repr

/-- The operands of an operation, read from its operand bits (R52, R54 to R58). ENC and DEC: the block in bits [31:0], the
subkey array above it. UNPAD: the length in bits [LEN_W-1:0], the message above it. -/
def decodeOperands (maxLen : Nat) (op : OpId) (bits : Nat) : Instr :=
  match op with
  | .ksched => .ksched (BitVec.ofNat 64 bits)
  | .enc => .enc (BitVec.ofNat 32 bits) (Machine.unpackSka (bits / 2 ^ 32))
  | .dec => .dec (BitVec.ofNat 32 bits) (Machine.unpackSka (bits / 2 ^ 32))
  | .unpad =>
      .unpad (Machine.unpackLanes 8 maxLen (bits / 2 ^ Machine.lenW maxLen))
        (Machine.lowBits (Machine.lenW maxLen) bits)

/-- The decoder: total on every number, telling the operation from `op` alone (R52), and rejecting by name a number with
more bits than its operation's transaction. -/
def decode (maxLen : Nat) (code : Nat) : Except DecodeError Instr :=
  let op := opIdOfBits (BitVec.ofNat 2 code)
  let bits := code / 4
  if operandsFit maxLen op bits then .ok (decodeOperands maxLen op bits)
  else .error .oversize

/-- The operand bits of a transaction. -/
def encodeOperands (maxLen : Nat) : Instr → Nat
  | .ksched key => key.toNat
  | .enc pt sk => pt.toNat + 2 ^ 32 * Machine.packSka sk
  | .dec ct sk => ct.toNat + 2 ^ 32 * Machine.packSka sk
  | .unpad msg len => len + 2 ^ Machine.lenW maxLen * Machine.packLanes 8 msg

/-- The encoder: the number of a well-formed transaction. -/
def encode (maxLen : Nat) (i : Instr) : Nat :=
  (bitsOfOpId (opIdOf i)).toNat + 4 * encodeOperands maxLen i

/-- The instruction the decoder reads from the low `nbits` bits of `w`, all higher bits being 0, with bit 0 the least
significant bit of the operation identifier as spec/opcode_table.json numbers it. -/
def decodeTableWord (nbits w : Nat) : Option Instr :=
  match decode Config.maxLen (w % 2 ^ nbits) with
  | .ok i => some i
  | .error _ => none

end Sys2Proof
end

