-- ==== Sys2Proof/Machine/WordAlgebra.lean ====
section
/-! DEFINITION. The word algebra (40_word_algebra.md): rotations, modular addition and subtraction, exclusive or. -/

namespace Sys2Proof.Machine

/-- `rotl16(x, n)`, 0 <= n <= 15 (R68): both shifts fill with zeros (PRESUMED by the spec itself: log
entry 17) and the result is 16 bits. -/
def rotl16 (x : Word) (n : Nat) : Word := (x <<< n) ||| (x >>> (16 - n))

/-- `rotr16(x, n)`, 0 <= n <= 15 (R69). -/
def rotr16 (x : Word) (n : Nat) : Word := (x >>> n) ||| (x <<< (16 - n))

/-- `add16(a, b)`: addition modulo 2^16, the carry discarded (R70). -/
def add16 (a b : Word) : Word := a + b

/-- `sub16(a, b)`: subtraction modulo 2^16, the borrow discarded (R71). -/
def sub16 (a b : Word) : Word := a - b

/-- `a XOR b` (R72). -/
def xor16 (a b : Word) : Word := a ^^^ b

/-- `zext_16(i)`: a small natural number as a word (R11). -/
def zext16 (i : Nat) : Word := BitVec.ofNat 16 i

end Sys2Proof.Machine
end

