-- ==== Sys2Proof/Machine/BlockCipher.lean ====
section
/-! DEFINITION. The round functions and the pure functions EncryptBlock and DecryptBlock (R86 to R91). -/

namespace Sys2Proof.Machine

/-- The state of a round: the two words `p1` and `p2` (R86). -/
structure Halves where
  p1 : Word
  p2 : Word
  deriving DecidableEq, Repr

/-- `EncRound(p1, p2, k)`: the second line uses the new `p1` (R87; 90_conflicts.md C1). -/
def encRound (p : Halves) (k : Word) : Halves :=
  let p1' := xor16 (add16 (rotr16 p.p1 Config.alpha) p.p2) k
  { p1 := p1', p2 := xor16 (rotl16 p.p2 Config.beta) p1' }

/-- `DecRound(p1, p2, k)`: `temp` uses the old `p1` and the new `p2` (R88). -/
def decRound (p : Halves) (k : Word) : Halves :=
  let p2' := rotr16 (xor16 p.p1 p.p2) Config.beta
  let temp := sub16 (xor16 p.p1 k) p2'
  { p1 := rotl16 temp Config.alpha, p2 := p2' }

/-- A block as two big-endian words (R35, R55). -/
def halvesOfBlock (blk : BitVec 32) : Halves := { p1 := blockP1 blk, p2 := blockP2 blk }

/-- Two words packed again as a block (R35, R55). -/
def blockOfHalves (p : Halves) : BitVec 32 := blockOfWords p.p1 p.p2

/-- `EncryptBlock(pt, sk)`: the 22 forward rounds in increasing index order (R90), on any array (R97). -/
def encryptBlock (pt : BitVec 32) (sk : SubkeyArray) : BitVec 32 :=
  blockOfHalves (sk.toList.foldl encRound (halvesOfBlock pt))

/-- `DecryptBlock(ct, sk)`: the 22 inverse rounds in decreasing index order (R91), on any array (R97). -/
def decryptBlock (ct : BitVec 32) (sk : SubkeyArray) : BitVec 32 :=
  blockOfHalves (sk.toList.reverse.foldl decRound (halvesOfBlock ct))

end Sys2Proof.Machine
end

