-- ==== Sys2Proof/Machine/State.lean ====
section
/-! DEFINITION. The machine's state: four unit statuses, the fault record, the input ports, and the host that drives the
block (R17 to R33). -/

namespace Sys2Proof.Machine

/-- The four units (R2). -/
inductive UnitName where
  | ks
  | enc
  | dec
  | up
  deriving DecidableEq, Repr

/-- A unit's status: exactly three values (R25). -/
inductive UnitStatus (Ops Res : Type) where
  /-- No operation accepted since reset. -/
  | idle
  /-- An operation was accepted with the captured operands `ops` and has not completed. -/
  | busy (ops : Ops)
  /-- The last accepted operation completed with result `res`. -/
  | done (res : Res)
  deriving DecidableEq, Repr

/-- The operands ENC and DEC capture: a block and a subkey array (R26). -/
structure CipherOps where
  block : BitVec 32
  sk : SubkeyArray
  deriving DecidableEq, Repr

/-- UNPAD's operands, and its result: the bytes `[0..MAX_LEN-1]` and a length (R26). -/
structure Message where
  bytes : List Byte
  len : Nat
  deriving DecidableEq, Repr

/-- The output ports (R21 to R24). -/
inductive OutPort where
  | ksBusy
  | ksDone
  | ksSk
  | encBusy
  | encDone
  | encCt
  | decBusy
  | decDone
  | decPt
  | upBusy
  | upDone
  | upMsgOut
  | upLenOut
  deriving DecidableEq, Repr

/-- What an output port can carry. -/
inductive PortValue where
  /-- `<u>_busy`, `<u>_done`. -/
  | flag (b : Bool)
  /-- `ks_sk` (format SKA). -/
  | subkeys (sk : SubkeyArray)
  /-- `enc_ct`, `dec_pt` (format BLK32). -/
  | block (blk : BitVec 32)
  /-- `up_msg_out` (format MSG). -/
  | bytes (msg : List Byte)
  /-- `up_len_out` (format LEN). -/
  | length (len : Nat)
  deriving DecidableEq, Repr

/-- The model faults: exactly three reasons (R113), each a host protocol violation. All three are RECORDED in the state
(`State.faults`) and the run goes on with what R114 gives, so no step answers the host's `fault` outcome. Recording is
safe: nothing is claimed of the hardware after a violation (R114), and a faulted state is never final (R31). -/
inductive Fault where
  /-- Raised by `clockEdge`, through the edge of each unit, when `<u>_start = 1` and the unit is Busy. Safe. -/
  | startWhileBusy (u : UnitName)
  /-- Raised by `edgeUp` when `up_start = 1`, UNPAD is not Busy and `up_len > MAX_LEN`; it records `up_len`. Safe. -/
  | lengthOutOfRange (len : Nat)
  /-- Raised by `hostRead` when the host reads a result port of a unit that is not Done. Safe. -/
  | readNoValue (u : UnitName) (port : OutPort)
  deriving DecidableEq, Repr

/-- One entry of the fault record: the fault with its unit, and the step it was raised in (R31). -/
structure FaultRecord where
  fault : Fault
  step : Nat
  deriving DecidableEq, Repr

/-- Why a step has no meaning. -/
inductive Refusal where
  /-- An instruction with no meaning in exec: none is left. Safe. -/
  | notModelled (mnemonic : String)
  /-- Raised by `runEvent` when the agenda holds a number that is no transaction: it has more bits than its operation's
  transaction, whose size is fixed (R52). It is no instruction of the block. Safe. -/
  | badTransaction
  deriving DecidableEq, Repr

/-- The input ports, as the host drives them (R20 to R24). -/
structure Ports where
  rst : Bool
  ksStart : Bool
  ksKey : BitVec 64
  encStart : Bool
  encPt : BitVec 32
  encSk : SubkeyArray
  decStart : Bool
  decCt : BitVec 32
  decSk : SubkeyArray
  upStart : Bool
  /-- The lanes of `up_msg`; `lanesOf` gives the MAX_LEN lanes the port has. -/
  upMsg : List Byte
  /-- `up_len`; the port carries its low LEN_W bits. -/
  upLen : Nat
  deriving DecidableEq, Repr

/-- Which of the busy units reach their completing edge at a rising edge (R128, R131). It says nothing of a unit that is
not Busy. -/
structure Completes where
  ks : Bool
  enc : Bool
  dec : Bool
  up : Bool
  deriving DecidableEq, Repr

/-- What the host and the schedule do next. -/
inductive Event where
  /-- The host runs one statement, written as its encoded transaction (R64, R65). -/
  | transaction (code : Nat)
  /-- The host drives every input port. -/
  | drive (ports : Ports)
  /-- A rising edge of `clk` (R116); `completes` is the schedule's choice at this edge (R131). -/
  | edge (completes : Completes)
  /-- The host reads an output port (R41, R131). -/
  | read (port : OutPort)
  deriving DecidableEq, Repr

/-- The machine's state (R33), the input ports, and the host. -/
@[ext]
structure State where
  /-- MAX_LEN, the parameter R9 makes an argument of the model; no step writes it. -/
  maxLen : Nat
  /-- `ks.status` (R25, R26). -/
  ks : UnitStatus (BitVec 64) SubkeyArray
  /-- `enc.status` (R25, R26). -/
  enc : UnitStatus CipherOps (BitVec 32)
  /-- `dec.status` (R25, R26). -/
  dec : UnitStatus CipherOps (BitVec 32)
  /-- `up.status` (R25, R26). -/
  up : UnitStatus Message Message
  /-- The fault record, oldest first (R31). -/
  faults : List FaultRecord
  /-- The input ports as they are driven now. -/
  ports : Ports
  /-- MODEL's own: what the host and the schedule do next, oldest first (R19; log entry 4). -/
  agenda : List Event
  /-- MODEL's own: what the host has read or copied from output ports, oldest first (R64; log entry 5). -/
  received : List (OutPort × PortValue)
  /-- MODEL's own: the number of the step being taken, for the fault record (R31; log entry 6). -/
  now : Nat
  deriving DecidableEq, Repr

/-- The input ports at launch: `rst` and every start low, as a host that has booted the block leaves them (R133), and the
operand ports 0 (DESIGN CHOICE: the spec gives none, log entry 3). -/
def Ports.launch : Ports where
  rst := false
  ksStart := false
  ksKey := 0
  encStart := false
  encPt := 0
  encSk := Vector.replicate 22 0
  decStart := false
  decCt := 0
  decSk := Vector.replicate 22 0
  upStart := false
  upMsg := []
  upLen := 0

/-- The launch state of an implementation of capacity `maxLen`: the state after reset, every unit Idle, no fault (R33). -/
def State.launch (maxLen : Nat) : State where
  maxLen := maxLen
  ks := .idle
  enc := .idle
  dec := .idle
  up := .idle
  faults := []
  ports := Ports.launch
  agenda := []
  received := []
  now := 0

/-- The machine right after reset (R32, R33), for the implementation's own MAX_LEN. -/
def State.reset : State := State.launch Config.maxLen

end Sys2Proof.Machine
end

