-- ==== Sys2Proof/Machine/Flags.lean ====
section
/-! DEFINITION. The status flags and the output ports, all functions of the unit statuses (R21 to R25, R30). -/

namespace Sys2Proof.Machine

/-- `<u>_busy` as a function of the status (R25). -/
def busyFlag {Ops Res : Type} : UnitStatus Ops Res → Bool
  | .idle => false
  | .busy _ => true
  | .done _ => false

/-- `<u>_done` as a function of the status (R25). -/
def doneFlag {Ops Res : Type} : UnitStatus Ops Res → Bool
  | .idle => false
  | .busy _ => false
  | .done _ => true

/-- The result a unit presents: none unless it is Done (R25, R30). -/
def resultOf {Ops Res : Type} : UnitStatus Ops Res → Option Res
  | .idle => none
  | .busy _ => none
  | .done r => some r

/-- The unit an output port belongs to (R21 to R24). -/
def portUnit : OutPort → UnitName
  | .ksBusy | .ksDone | .ksSk => .ks
  | .encBusy | .encDone | .encCt => .enc
  | .decBusy | .decDone | .decPt => .dec
  | .upBusy | .upDone | .upMsgOut | .upLenOut => .up

/-- What an output port carries: a flag always, a result only while its unit is Done (R25, R30). -/
def portValue (p : OutPort) (s : State) : Option PortValue :=
  match p with
  | .ksBusy => some (.flag (busyFlag s.ks))
  | .ksDone => some (.flag (doneFlag s.ks))
  | .ksSk => (resultOf s.ks).map .subkeys
  | .encBusy => some (.flag (busyFlag s.enc))
  | .encDone => some (.flag (doneFlag s.enc))
  | .encCt => (resultOf s.enc).map .block
  | .decBusy => some (.flag (busyFlag s.dec))
  | .decDone => some (.flag (doneFlag s.dec))
  | .decPt => (resultOf s.dec).map .block
  | .upBusy => some (.flag (busyFlag s.up))
  | .upDone => some (.flag (doneFlag s.up))
  | .upMsgOut => (resultOf s.up).map fun m => .bytes m.bytes
  | .upLenOut => (resultOf s.up).map fun m => .length m.len

/-- The result ports of a unit, in the order in which a statement copies them (R64). -/
def resultPorts : UnitName → List OutPort
  | .ks => [.ksSk]
  | .enc => [.encCt]
  | .dec => [.decPt]
  | .up => [.upMsgOut, .upLenOut]

/-- The fault codes (R113). -/
def faultCode : Fault → Nat
  | .startWhileBusy _ => 1
  | .lengthOutOfRange _ => 2
  | .readNoValue _ _ => 3

end Sys2Proof.Machine
end

