-- ==== Sys2Proof/Machine/KeySchedule.lean ====
section
/-! DEFINITION. The pure function KeySchedule (R76 to R80). -/

namespace Sys2Proof.Machine

/-- The working arrays of the key schedule (R77): the entries written so far, in index order. An entry the loop has not
written yet has no value, so it is not there. -/
structure Schedule where
  /-- `sk[0..]`. -/
  sk : List Word
  /-- The lookback array `l[0..]`. -/
  l : List Word
  deriving DecidableEq, Repr

/-- The seeds: `sk[0] = k0`, `l[0] = k1`, `l[1] = k2`, `l[2] = k3` (R77). -/
def scheduleSeed (key : BitVec 64) : Schedule :=
  { sk := [keyK0 key], l := [keyK1 key, keyK2 key, keyK3 key] }

/-- `l[i + 3]` from `sk[i]` and `l[i]` (R78). -/
def nextLookback (i : Nat) (ski li : Word) : Word := xor16 (add16 ski (rotr16 li Config.alpha)) (zext16 i)

/-- `sk[i + 1]` from `sk[i]` and the new `l[i + 3]` (R78). -/
def nextSubkey (ski l3 : Word) : Word := xor16 (rotl16 ski Config.beta) l3

/-- Iteration `i` of the loop (R78): it writes `l[i + 3]`, then `sk[i + 1]`, which reads it. Both entries it reads are
there (R79), so the default of `getD` is never taken. -/
def scheduleIter (w : Schedule) (i : Nat) : Schedule :=
  let ski := w.sk.getD i 0
  let l3 := nextLookback i ski (w.l.getD i 0)
  { sk := w.sk ++ [nextSubkey ski l3], l := w.l ++ [l3] }

/-- The working arrays after the iterations `i = 0, 1, ..., n - 1`. -/
def scheduleAfter (key : BitVec 64) (n : Nat) : Schedule := (List.range n).foldl scheduleIter (scheduleSeed key)

theorem scheduleAfter_sk_length (key : BitVec 64) (n : Nat) : (scheduleAfter key n).sk.length = n + 1 := by
  induction n with
  | zero => rfl
  | succ n ih =>
    simp only [scheduleAfter, List.range_succ, List.foldl_append, List.foldl_cons, List.foldl_nil] at ih ⊢
    simp [scheduleIter, ih]

/-- `KeySchedule(key)`: `sk[0..21]` after the 21st iteration, the array `l` discarded (R80). -/
def keySchedule (key : BitVec 64) : SubkeyArray :=
  ⟨(scheduleAfter key Config.ksIterations).sk.toArray, by
    simp [scheduleAfter_sk_length, Config.ksIterations]⟩

end Sys2Proof.Machine
end

