-- ==== Sys2Proof/Machine/Padding.lean ====
section
/-! DEFINITION. The pure function Unpad (R101) and the host's padding of a message (R66 PAD, D17). -/

namespace Sys2Proof.Machine

/-- The loop of R101: the length once every `0x00` at the end of the first `n` bytes is removed, down to 0 and no
further (90_conflicts.md C4). -/
def stripFill (msg : List Byte) : (n : Nat) → Nat
  | 0 => 0
  | n + 1 => if msg[n]? = some Config.padFill then stripFill msg n else n + 1

/-- The last test of R101: at most one `0x80` is removed. -/
def stripMarker (msg : List Byte) : (n : Nat) → Nat
  | 0 => 0
  | n + 1 => if msg[n]? = some Config.padMarker then n else n + 1

/-- `Unpad(msg, len)` (R101): the fill, then the one marker before it. -/
def unpadLen (msg : List Byte) (len : Nat) : Nat := stripMarker msg (stripFill msg len)

/-- How many `0x00` bytes PAD writes behind the marker of a message of `len` bytes: to a multiple of 4 (R66). -/
def padFillCount (len : Nat) : Nat := (Config.blockBytes - (len + 1) % Config.blockBytes) % Config.blockBytes

/-- `PAD <msg>`: append `0x80`, then `0x00` bytes until the length is a multiple of 4, always at least the marker (R66). A
host computation, not a unit. -/
def padMessage (msg : List Byte) : List Byte :=
  msg ++ Config.padMarker :: List.replicate (padFillCount msg.length) Config.padFill

/-- PAD_POLICY of a model of a host (D17, 93_implementation_defined.md item 3; log entry 18). -/
inductive PadPolicy where
  /-- Every message is padded: the policy of this spec's host programs (D17). -/
  | unconditional
  /-- Only a message whose length is no multiple of 4 is padded: the other policy the source leaves open (R109). -/
  | misalignedOnly
  deriving DecidableEq, Repr

/-- A message padded under a policy. -/
def padUnder (policy : PadPolicy) (msg : List Byte) : List Byte :=
  match policy with
  | .unconditional => padMessage msg
  | .misalignedOnly => if msg.length % Config.blockBytes = 0 then msg else padMessage msg

end Sys2Proof.Machine
end

