-- ==== Sys2Proof/Machine/Ops.lean ====
section
/-! DEFINITION. The named operations: raising a fault, driving ports, a rising edge of the clock, a read, and a whole
statement. -/

namespace Sys2Proof.Machine

/-! ### One update per field -/

/-- KS's status becomes `v`. -/
def State.setKs (v : UnitStatus (BitVec 64) SubkeyArray) (s : State) : State := { s with ks := v }
/-- ENC's status becomes `v`. -/
def State.setEnc (v : UnitStatus CipherOps (BitVec 32)) (s : State) : State := { s with enc := v }
/-- DEC's status becomes `v`. -/
def State.setDec (v : UnitStatus CipherOps (BitVec 32)) (s : State) : State := { s with dec := v }
/-- UNPAD's status becomes `v`. -/
def State.setUp (v : UnitStatus Message Message) (s : State) : State := { s with up := v }
/-- The host drives the input ports (R17); nothing else changes before the next edge (R39). -/
def drivePorts (p : Ports) (s : State) : State := { s with ports := p }
/-- The host keeps a value it has taken from an output port. -/
def receive (p : OutPort) (v : PortValue) (s : State) : State := { s with received := s.received ++ [(p, v)] }
/-- The next step begins, with this agenda left. -/
def State.advance (rest : List Event) (s : State) : State := { s with agenda := rest, now := s.now + 1 }

/-! ### Faults (R31, R113, R114) -/

/-- `raise Fault(reason)`: the shared operation that records a fault, with its step, and appends it (R13, R31). It is the
machine's only exception entry, and there is no return from it: no state is saved, no mode changes, no handler exists, and
no fault is ever cleared (R117, R118). -/
def raiseFault (f : Fault) (s : State) : State := { s with faults := s.faults ++ [{ fault := f, step := s.now }] }

/-! ### A rising edge of the clock (R116, R125 to R128) -/

/-- Reset: every unit becomes Idle; the fault record and the input ports are left (R125, R126). -/
def resetUnits (s : State) : State := s.setKs .idle |>.setEnc .idle |>.setDec .idle |>.setUp .idle

/-- One unit at one edge with `rst = 0`: a start is accepted unless the unit is Busy, and captures `ops` (R127); a start
while Busy changes nothing, not even if the unit would complete (R116 a); without a start a Busy unit completes when the
schedule says so (R116 c, R128). -/
def unitEdge {Ops Res : Type} (start : Bool) (ops : Ops) (completes : Bool) (f : Ops → Res) :
    UnitStatus Ops Res → UnitStatus Ops Res
  | .idle => if start then .busy ops else .idle
  | .busy o => if start then .busy o else if completes then .done (f o) else .busy o
  | .done r => if start then .busy ops else .done r

/-- StartWhileBusy, if unit `u` has its start asserted while it is Busy (R113, R116 a). -/
def startFault (u : UnitName) (start busy : Bool) (s : State) : State :=
  if start && busy then raiseFault (.startWhileBusy u) s else s

/-- KS at an edge with `rst = 0`. -/
def edgeKs (completes : Bool) (s : State) : State :=
  (startFault .ks s.ports.ksStart (busyFlag s.ks) s).setKs
    (unitEdge s.ports.ksStart s.ports.ksKey completes keySchedule s.ks)

/-- What ENC computes from its captured operands (R92). -/
def encResult (o : CipherOps) : BitVec 32 := encryptBlock o.block o.sk

/-- ENC at an edge with `rst = 0`. -/
def edgeEnc (completes : Bool) (s : State) : State :=
  (startFault .enc s.ports.encStart (busyFlag s.enc) s).setEnc
    (unitEdge s.ports.encStart { block := s.ports.encPt, sk := s.ports.encSk } completes encResult s.enc)

/-- What DEC computes from its captured operands (R93). -/
def decResult (o : CipherOps) : BitVec 32 := decryptBlock o.block o.sk

/-- DEC at an edge with `rst = 0`. -/
def edgeDec (completes : Bool) (s : State) : State :=
  (startFault .dec s.ports.decStart (busyFlag s.dec) s).setDec
    (unitEdge s.ports.decStart { block := s.ports.decCt, sk := s.ports.decSk } completes decResult s.dec)

/-- What UNPAD computes from its captured operands: the bytes unchanged, the length shortened (R102, R103). -/
def unpadResult (m : Message) : Message := { bytes := m.bytes, len := unpadLen m.bytes m.len }

/-- UNPAD's operand ports as they are sampled: MAX_LEN lanes and LEN_W bits (R39, R57, R58). -/
def sampledMessage (maxLen : Nat) (p : Ports) : Message :=
  { bytes := lanesOf maxLen p.upMsg, len := lowBits (lenW maxLen) p.upLen }

/-- Does a start of UNPAD at this edge fail the length check? Only where it would be accepted (R113, R116 b). -/
def lengthFails (s : State) : Bool :=
  s.ports.upStart && !busyFlag s.up && decide (s.maxLen < (sampledMessage s.maxLen s.ports).len)

/-- UNPAD at an edge with `rst = 0`: LengthOutOfRange makes it Idle instead of accepting (R100, R127). -/
def edgeUp (completes : Bool) (s : State) : State :=
  if lengthFails s then
    (raiseFault (.lengthOutOfRange (sampledMessage s.maxLen s.ports).len) s).setUp .idle
  else
    (startFault .up s.ports.upStart (busyFlag s.up) s).setUp
      (unitEdge s.ports.upStart (sampledMessage s.maxLen s.ports) completes unpadResult s.up)

/-- A rising edge of `clk`: reset first and alone, else every unit, its faults recorded in the order KS, ENC, DEC, UNPAD
(R116). -/
def clockEdge (c : Completes) (s : State) : State :=
  if s.ports.rst then resetUnits s
  else edgeUp c.up (edgeDec c.dec (edgeEnc c.enc (edgeKs c.ks s)))

/-! ### Reads (R41, R131, R134) -/

/-- The host reads an output port: it receives what the port carries, or the read is ReadNoValue (R113), whether `rst` is
high or low (DEDUCED: log entry 11). The block itself does not change (R41). -/
def hostRead (p : OutPort) (s : State) : State :=
  match portValue p s with
  | some v => receive p v s
  | none => raiseFault (.readNoValue (portUnit p) p) s

/-! ### Schedules -/

/-- No unit completes at this edge. -/
def Completes.nobody : Completes where
  ks := false
  enc := false
  dec := false
  up := false

/-- Only unit `u` may complete at this edge. -/
def Completes.only (u : UnitName) : Completes where
  ks := decide (u = .ks)
  enc := decide (u = .enc)
  dec := decide (u = .dec)
  up := decide (u = .up)

/-- Where unit `u` stands in the free schedule at step `n`: how often it has been let complete, and how many edges are left
until it is again. -/
def waitAt (u : Nat) : (n : Nat) → Nat × Nat
  | 0 => (0, Config.freeWait u 0)
  | n + 1 =>
    match waitAt u n with
    | (k, 0) => (k + 1, Config.freeWait u (k + 1))
    | (k, left + 1) => (k, left)

/-- Does the free schedule let unit `u` complete at step `n`? Any infinite set of steps is the set of these for some waits,
and no finite set is: the schedule is free, and weakly fair (R131; log entries 7 and 16). -/
def freeCompletes (u n : Nat) : Bool := (waitAt u n).2 == 0

/-- The schedule once the host has stopped: free and weakly fair (R131; log entries 7 and 16). -/
def freeSchedule (now : Nat) : Completes where
  ks := freeCompletes 0 now
  enc := freeCompletes 1 now
  dec := freeCompletes 2 now
  up := freeCompletes 3 now

/-! ### A whole statement (R64) -/

/-- The input ports with `rst` and every start low, the operands as they are. -/
def Ports.quiet (p : Ports) : Ports :=
  { p with rst := false, ksStart := false, encStart := false, decStart := false, upStart := false }

/-- Copy one result port into host storage, if it has a value. -/
def copyPort (s : State) (p : OutPort) : State :=
  match portValue p s with
  | some v => receive p v s
  | none => s

/-- A statement on unit `u` (R64): wait until the unit is not Busy; drive its operand ports and assert its start for one
edge; wait until it is done; copy its result ports. `request` puts the operands and the start on the ports. The waits end
at the unit's completing edge; no other unit is started, and none completes meanwhile (log entry 9). If the start is not
accepted (LengthOutOfRange) there is no result and nothing is copied (R114). -/
def runStatement (u : UnitName) (request : Ports → Ports) (s : State) : State :=
  let waited := clockEdge (Completes.only u) (drivePorts s.ports.quiet s)
  let started := clockEdge Completes.nobody (drivePorts (request waited.ports) waited)
  let finished := clockEdge (Completes.only u) (drivePorts started.ports.quiet started)
  (resultPorts u).foldl copyPort finished

/-! ### The ports a statement drives (R21 to R24) -/

/-- The ports that ask KS for `key`. -/
def requestKs (key : BitVec 64) (p : Ports) : Ports := { p with ksStart := true, ksKey := key }
/-- The ports that ask ENC for `pt` under `sk`. -/
def requestEnc (pt : BitVec 32) (sk : SubkeyArray) (p : Ports) : Ports :=
  { p with encStart := true, encPt := pt, encSk := sk }
/-- The ports that ask DEC for `ct` under `sk`. -/
def requestDec (ct : BitVec 32) (sk : SubkeyArray) (p : Ports) : Ports :=
  { p with decStart := true, decCt := ct, decSk := sk }
/-- The ports that ask UNPAD for `msg` of length `len`. -/
def requestUp (msg : List Byte) (len : Nat) (p : Ports) : Ports :=
  { p with upStart := true, upMsg := msg, upLen := len }

end Sys2Proof.Machine
end

