-- ==== Sys2Proof/Machine/CipherUnits.lean ====
section
/-! DEFINITION. The meanings of ENC and DEC (R92, R93). -/

namespace Sys2Proof.Machine

/-- `ENC <block>, <sk>`: ENC presents `EncryptBlock(pt, sk)` on `enc_ct`; it never fails (R92, R64). -/
def execEnc (pt : BitVec 32) (sk : SubkeyArray) (s : State) : Host.Outcome State Fault Refusal :=
  .next (runStatement .enc (requestEnc pt sk) s)

/-- `DEC <block>, <sk>`: DEC presents `DecryptBlock(ct, sk)` on `dec_pt`; it never fails (R93, R64). -/
def execDec (ct : BitVec 32) (sk : SubkeyArray) (s : State) : Host.Outcome State Fault Refusal :=
  .next (runStatement .dec (requestDec ct sk) s)

end Sys2Proof.Machine
end

