-- ==== Sys2Proof/Machine/KeyUnit.lean ====
section
/-! DEFINITION. The meaning of KSCHED (R81). -/

namespace Sys2Proof.Machine

/-- `KSCHED <key>`: KS presents `KeySchedule(key)` on `ks_sk`; it never fails (R81, R64). -/
def execKsched (key : BitVec 64) (s : State) : Host.Outcome State Fault Refusal :=
  .next (runStatement .ks (requestKs key) s)

end Sys2Proof.Machine
end

