-- ==== Sys2Proof/Machine/PaddingUnit.lean ====
section
/-! DEFINITION. The meaning of UNPAD (R103). -/

namespace Sys2Proof.Machine

/-- `UNPAD <msg>, <len>`: UNPAD presents the bytes unchanged on `up_msg_out` and `Unpad(msg, len)` on `up_len_out`; with
`len > MAX_LEN` the fault LengthOutOfRange is recorded and UNPAD becomes Idle (R100, R103, R64). -/
def execUnpad (msg : List Byte) (len : Nat) (s : State) : Host.Outcome State Fault Refusal :=
  .next (runStatement .up (requestUp msg len) s)

end Sys2Proof.Machine
end

