-- ==== Sys2Proof/Machine/Dispatch.lean ====
section
/-! DEFINITION. One arm per operation of spec/opcode_table.json. -/

namespace Sys2Proof.Machine

def exec (i : Instr) (s : State) : Host.Outcome State Fault Refusal :=
  match i with
  | .ksched key => Sys2Proof.Machine.execKsched key s
  | .enc pt sk => Sys2Proof.Machine.execEnc pt sk s
  | .dec ct sk => Sys2Proof.Machine.execDec ct sk s
  | .unpad msg len => Sys2Proof.Machine.execUnpad msg len s

end Sys2Proof.Machine
end

