-- ==== Sys2Proof/Machine/Agenda.lean ====
section
/-! DEFINITION. What one event of the agenda does (R19, R64, R131). -/

namespace Sys2Proof.Machine

/-- A statement is fetched as its transaction's number, decoded for the capacity of this block, and run (R52, R64). -/
def runTransaction (code : Nat) (s : State) : Host.Outcome State Fault Refusal :=
  match decode s.maxLen code with
  | .ok i => exec i s
  | .error .oversize => .refused .badTransaction

/-- One event of the agenda. -/
def runEvent (e : Event) (s : State) : Host.Outcome State Fault Refusal :=
  match e with
  | .transaction code => runTransaction code s
  | .drive p => .next (drivePorts p s)
  | .edge c => .next (clockEdge c s)
  | .read p => .next (hostRead p s)

/-- The host has nothing left to do: the clock goes on, the ports hold what they carry, and a busy unit completes when the
free schedule says so (R124, R131; log entry 7). -/
def idleEdge (s : State) : Host.Outcome State Fault Refusal := .next (clockEdge (freeSchedule s.now) s)

end Sys2Proof.Machine
end

