-- ==== Sys2Proof/Machine/Step.lean ====
section
/-! DEFINITION. One step, and where a transaction stands to be fetched next. -/

namespace Sys2Proof.Machine

/-- One step: the next event of the agenda, or an edge of the clock when the agenda is empty. -/
def step (s : State) : Host.Outcome State Fault Refusal :=
  match s.agenda with
  | [] => idleEdge (s.advance [])
  | e :: rest => runEvent e (s.advance rest)

/-- `s` with the transaction whose low `nbits` bits are those of `w`, all others 0, as the next event of the agenda. -/
def State.withFetchWord (s : State) (nbits w : Nat) : State :=
  { s with agenda := .transaction (w % 2 ^ nbits) :: s.agenda }

end Sys2Proof.Machine
end

