-- ==== Sys2Proof/Machine/Cycle.lean ====
section
/-! DEFINITION. The cycle-level form of the completion rule (R9, R128): a schedule made by latencies. `step` takes the
transaction-level model's free schedule (R131); this file shows which of its schedules an implementation with given
latencies takes. -/

namespace Sys2Proof.Machine

/-- LAT_u - 1 for each unit, as a function of the captured operands (R9: at least 1, possibly operand-dependent). -/
structure Latencies where
  ks : BitVec 64 → Nat
  enc : CipherOps → Nat
  dec : CipherOps → Nat
  up : Message → Nat

/-- This implementation's latencies, of which nothing is known (R9, D4). -/
def Config.latencies : Latencies where
  ks := Config.latKsExtra
  enc := fun o => Config.latEncExtra o.block o.sk
  dec := fun o => Config.latDecExtra o.block o.sk
  up := fun m => Config.latUnpadExtra m.bytes m.len

/-- The machine with, for each unit, the number of edges since its accepting edge. -/
structure CycleState where
  machine : State
  ksAge : Nat
  encAge : Nat
  decAge : Nat
  upAge : Nat
  deriving DecidableEq, Repr

/-- Is the next edge the LAT_u-th after the accepting edge, or a later one, when `age` edges have passed since (R128)? A unit
that is Busy past its LAT_u-th edge lost that edge to a StartWhileBusy (R116 a). R128 speaks of runs without faults and gives
no edge for it; here it completes at the first later edge without a start (DESIGN CHOICE: log entry 19). -/
def completionDue {Ops Res : Type} (extra : Ops → Nat) (age : Nat) : UnitStatus Ops Res → Bool
  | .idle => false
  | .busy o => decide (extra o ≤ age)
  | .done _ => false

/-- The edges since the accepting edge, after one more edge, those lost to a StartWhileBusy counted (log entry 19): a unit
that is not Busy before it starts again from 0. -/
def ageAfter {Ops Res : Type} (age : Nat) : UnitStatus Ops Res → Nat
  | .idle => 0
  | .busy _ => age + 1
  | .done _ => 0

/-- The units whose completing edge the next edge is. -/
def dueNow (lat : Latencies) (c : CycleState) : Completes where
  ks := completionDue lat.ks c.ksAge c.machine.ks
  enc := completionDue lat.enc c.encAge c.machine.enc
  dec := completionDue lat.dec c.decAge c.machine.dec
  up := completionDue lat.up c.upAge c.machine.up

/-- One rising edge in the cycle-level model, with the input ports `p` (R116, R128). Each edge is a step of its own number,
which the faults it raises record (R113; log entry 6). -/
def cycleEdge (lat : Latencies) (p : Ports) (c : CycleState) : CycleState where
  machine := clockEdge (dueNow lat c) (drivePorts p (c.machine.advance c.machine.agenda))
  ksAge := ageAfter c.ksAge c.machine.ks
  encAge := ageAfter c.encAge c.machine.enc
  decAge := ageAfter c.decAge c.machine.dec
  upAge := ageAfter c.upAge c.machine.up

/-- A sequence of edges, one port valuation each. -/
def cycleRun (lat : Latencies) (ps : List Ports) (c : CycleState) : CycleState :=
  ps.foldl (fun c p => cycleEdge lat p c) c

end Sys2Proof.Machine
end

