-- ==== Sys2Proof/Machine/HostProgram.lean ====
section
/-! DEFINITION. Host programs (R63, R64) and the pseudo-instructions ENCK, DECK, PAD, ENCMSG and DECMSG (R66). The host is
no part of the block: this layer only says which transactions a program makes of which values. Variables are numbers
here; the text of a program (hexadecimal digits, comments) is host I/O (00_scope.md R7; log entry 14). -/

namespace Sys2Proof.Machine

/-! ### One statement -/

/-- Run one transaction, if its operands fit their ports. -/
def issue (i : Instr) (s : State) : Option State :=
  if i.wellFormed s.maxLen then
    match exec i s with
    | .next t => some t
    | .fault _ => none
    | .refused _ => none
  else none

/-- `v := KSCHED <key>`: the value of `v` and the block after it. -/
def stmtKsched (key : BitVec 64) (s : State) : Option (SubkeyArray × State) :=
  (issue (.ksched key) s).bind fun t => (resultOf t.ks).map fun sk => (sk, t)

/-- `v := ENC <block>, <sk>`. -/
def stmtEnc (pt : BitVec 32) (sk : SubkeyArray) (s : State) : Option (BitVec 32 × State) :=
  (issue (.enc pt sk) s).bind fun t => (resultOf t.enc).map fun ct => (ct, t)

/-- `v := DEC <block>, <sk>`. -/
def stmtDec (ct : BitVec 32) (sk : SubkeyArray) (s : State) : Option (BitVec 32 × State) :=
  (issue (.dec ct sk) s).bind fun t => (resultOf t.dec).map fun pt => (pt, t)

/-- `(m, n) := UNPAD <msg>, <len>`; no result, and so no end of the statement, where the length is out of range (R114). The
spec does not say what a statement drives on lanes its byte list does not give: 0 here, also below `len`, where these bytes
are part of the message and are trimmed as fill (DESIGN CHOICE: log entry 20). -/
def stmtUnpad (msg : List Byte) (len : Nat) (s : State) : Option (Message × State) :=
  (issue (.unpad (lanesOf s.maxLen msg) len) s).bind fun t => (resultOf t.up).map fun m => (m, t)

/-! ### Messages (R66) -/

/-- Blocks 0 to `n - 1` of a message: block `b` takes bytes `4b .. 4b+3` as its bytes `B[0..3]` (R66). -/
def blocksOf : (n : Nat) → (msg : List Byte) → List (BitVec 32)
  | n + 1, b0 :: b1 :: b2 :: b3 :: rest => blockOfBytes b0 b1 b2 b3 :: blocksOf n rest
  | _, _ => []

/-- The bytes of a list of blocks, in order. -/
def bytesOfBlocks (blks : List (BitVec 32)) : List Byte := blks.flatMap bytesOfBlock

/-- One ENC statement for each block, in order. -/
def encBlocks (sk : SubkeyArray) : List (BitVec 32) → State → Option (List (BitVec 32) × State)
  | [], s => some ([], s)
  | b :: bs, s => (stmtEnc b sk s).bind fun r => (encBlocks sk bs r.2).map fun q => (r.1 :: q.1, q.2)

/-- One DEC statement for each block, in order. -/
def decBlocks (sk : SubkeyArray) : List (BitVec 32) → State → Option (List (BitVec 32) × State)
  | [], s => some ([], s)
  | b :: bs, s => (stmtDec b sk s).bind fun r => (decBlocks sk bs r.2).map fun q => (r.1 :: q.1, q.2)

/-- How many blocks a message of `len` bytes has: a trailing group of fewer than 4 bytes is dropped (R66, D29). -/
def blockCount (len : Nat) : Nat := len / Config.blockBytes

/-- How many bytes those blocks take: all that ENCMSG and DECMSG read of a message of `len` bytes (R66). -/
def wholeBytes (len : Nat) : Nat := Config.blockBytes * blockCount len

/-- `v := ENCMSG <msg>, <len>, <sk>` (R66). The bytes its blocks take must be there; those of a dropped trailing group need
not. -/
def encMessage (msg : List Byte) (len : Nat) (sk : SubkeyArray) (s : State) : Option (List Byte × State) :=
  if wholeBytes len ≤ msg.length then
    (encBlocks sk (blocksOf (blockCount len) msg) s).map fun r => (bytesOfBlocks r.1, r.2)
  else none

/-- `(m, n) := DECMSG <msg>, <len>, <sk>`: every DEC first, then UNPAD on the whole (R66, R137). The bytes it reads are those
of ENCMSG. R66's `t` is a value of the expansion and no variable of the host (DESIGN CHOICE: log entry 14). -/
def decMessage (msg : List Byte) (len : Nat) (sk : SubkeyArray) (s : State) : Option (Message × State) :=
  if wholeBytes len ≤ msg.length then
    (decBlocks sk (blocksOf (blockCount len) msg) s).bind fun r => stmtUnpad (bytesOfBlocks r.1) (wholeBytes len) r.2
  else none

/-! ### Programs with variables (R63) -/

/-- What a host variable holds. -/
inductive HostValue where
  | key (v : BitVec 64)
  | block (v : BitVec 32)
  | subkeys (v : SubkeyArray)
  | bytes (v : List Byte)
  | num (v : Nat)
  deriving DecidableEq, Repr

/-- An operand of a statement: a literal or a variable. -/
inductive Operand where
  | lit (v : HostValue)
  | var (x : Nat)
  deriving DecidableEq, Repr

/-- A statement or a pseudo-instruction (R63, R66). -/
inductive Stmt where
  | ksched (v : Nat) (key : Operand)
  | enc (v : Nat) (block sk : Operand)
  | dec (v : Nat) (block sk : Operand)
  | unpad (m n : Nat) (msg len : Operand)
  | encK (v : Nat) (block key : Operand)
  | decK (v : Nat) (block key : Operand)
  | pad (v : Nat) (msg : Operand) (len : Operand)
  | encMsg (v : Nat) (msg len sk : Operand)
  | decMsg (m n : Nat) (msg len sk : Operand)
  deriving DecidableEq, Repr

/-- The host with its variables, the newest value of a variable first, and the block it drives. -/
structure HostState where
  vars : List (Nat × HostValue)
  block : State
  deriving DecidableEq, Repr

/-- The value of an operand; a variable that was never assigned has none, and a statement that reads it no meaning (DESIGN
CHOICE: log entry 14). -/
def operandValue (h : HostState) : Operand → Option HostValue
  | .lit v => some v
  | .var x => h.vars.lookup x

/-- An operand that is a key. -/
def keyOperand (h : HostState) (o : Operand) : Option (BitVec 64) :=
  match operandValue h o with
  | some (.key v) => some v
  | _ => none

/-- An operand that is a block. -/
def blockOperand (h : HostState) (o : Operand) : Option (BitVec 32) :=
  match operandValue h o with
  | some (.block v) => some v
  | _ => none

/-- An operand that is a subkey array. -/
def subkeysOperand (h : HostState) (o : Operand) : Option SubkeyArray :=
  match operandValue h o with
  | some (.subkeys v) => some v
  | _ => none

/-- An operand that is a byte list. -/
def bytesOperand (h : HostState) (o : Operand) : Option (List Byte) :=
  match operandValue h o with
  | some (.bytes v) => some v
  | _ => none

/-- An operand that is a number. -/
def numOperand (h : HostState) (o : Operand) : Option Nat :=
  match operandValue h o with
  | some (.num v) => some v
  | _ => none

/-- The host assigns a value to a variable. -/
def assign (x : Nat) (v : HostValue) (h : HostState) : HostState := { h with vars := (x, v) :: h.vars }

/-- The host assigns the two results of UNPAD: the bytes, then the length (R64). Where both go to one variable, the length
stays (DESIGN CHOICE: log entry 14). -/
def assignMessage (m n : Nat) (r : Message × State) (h : HostState) : HostState :=
  assign n (.num r.1.len) (assign m (.bytes r.1.bytes) { h with block := r.2 })

/-- One statement of a host program; none if an operand has no value or one of the wrong type, if PAD, ENCMSG or DECMSG reads
a byte that its list does not have, or if the statement does not end (log entry 14). The `t` of R66's ENCK and DECK is not
kept. -/
def runStmt (st : Stmt) (h : HostState) : Option HostState :=
  match st with
  | .ksched v key => do
      let r ← stmtKsched (← keyOperand h key) h.block
      some (assign v (.subkeys r.1) { h with block := r.2 })
  | .enc v block sk => do
      let r ← stmtEnc (← blockOperand h block) (← subkeysOperand h sk) h.block
      some (assign v (.block r.1) { h with block := r.2 })
  | .dec v block sk => do
      let r ← stmtDec (← blockOperand h block) (← subkeysOperand h sk) h.block
      some (assign v (.block r.1) { h with block := r.2 })
  | .unpad m n msg len => do
      let r ← stmtUnpad (← bytesOperand h msg) (← numOperand h len) h.block
      some (assignMessage m n r h)
  | .encK v block key => do
      let t ← stmtKsched (← keyOperand h key) h.block
      let r ← stmtEnc (← blockOperand h block) t.1 t.2
      some (assign v (.block r.1) { h with block := r.2 })
  | .decK v block key => do
      let t ← stmtKsched (← keyOperand h key) h.block
      let r ← stmtDec (← blockOperand h block) t.1 t.2
      some (assign v (.block r.1) { h with block := r.2 })
  | .pad v msg len => do
      let bytes ← bytesOperand h msg
      let len ← numOperand h len
      if len ≤ bytes.length then some (assign v (.bytes (padMessage (bytes.take len))) h) else none
  | .encMsg v msg len sk => do
      let r ← encMessage (← bytesOperand h msg) (← numOperand h len) (← subkeysOperand h sk) h.block
      some (assign v (.bytes r.1) { h with block := r.2 })
  | .decMsg m n msg len sk => do
      let r ← decMessage (← bytesOperand h msg) (← numOperand h len) (← subkeysOperand h sk) h.block
      some (assignMessage m n r h)

/-- A host program: its statements in order (R63). -/
def runProgram : List Stmt → HostState → Option HostState
  | [], h => some h
  | st :: rest, h => (runStmt st h).bind (runProgram rest)

end Sys2Proof.Machine
end

