-- ==== Sys2Proof/Safety.lean ====
section
/-! DEFINITION. What claims say of states: the invariant every step keeps, when a run may count as final, and what of the
machine an event may change. -/

namespace Sys2Proof.Machine

/-- A captured or resulting message: exactly MAX_LEN bytes and a length in `0 .. MAX_LEN` (R26). -/
def messageFits (maxLen : Nat) (m : Message) : Prop := m.bytes.length = maxLen ∧ m.len ≤ maxLen

/-- What UNPAD holds, operands or result, is a message of this block (R26). -/
def unpadHoldsMessage (maxLen : Nat) : UnitStatus Message Message → Prop
  | .idle => True
  | .busy m => messageFits maxLen m
  | .done m => messageFits maxLen m

/-- A fault that can be raised on this block: a length that is out of range and yet on a port of LEN_W bits, or a read of a
result port of the unit it names (R113). -/
def faultPossible (maxLen : Nat) : Fault → Prop
  | .startWhileBusy _ => True
  | .lengthOutOfRange len => maxLen < len ∧ len < 2 ^ lenW maxLen
  | .readNoValue u p => p ∈ resultPorts u

/-- The invariant: UNPAD holds only messages of MAX_LEN bytes with a length in range, and the fault record holds only
possible faults of steps already begun. -/
def State.Inv (s : State) : Prop :=
  unpadHoldsMessage s.maxLen s.up ∧ ∀ r ∈ s.faults, faultPossible s.maxLen r.fault ∧ r.step ≤ s.now

/-- A run that may count: no fault was recorded (R31: a state with a non-empty fault record is never final). -/
def State.clean (s : State) : Bool := s.faults.isEmpty

/-- A final state: clean, the agenda used up, no unit Busy (R31; DEDUCED, log entry 13). -/
def State.final (s : State) : Bool :=
  s.clean && s.agenda.isEmpty && !busyFlag s.ks && !busyFlag s.enc && !busyFlag s.dec && !busyFlag s.up

/-! ### The units' functions as relations, independent of how Machine/ computes them -/

/-- `sk` is the subkey array of `key`: the seeds of R77 and the 21 iterations of R78, with the lookback array `l[0..23]`. -/
def IsKeySchedule (key : BitVec 64) (sk : SubkeyArray) : Prop :=
  ∃ l : Vector Word 24,
    sk[0] = key.extractLsb' 0 16 ∧ l[0] = key.extractLsb' 16 16 ∧ l[1] = key.extractLsb' 32 16 ∧
      l[2] = key.extractLsb' 48 16 ∧
      ∀ (i : Nat) (_ : i < 21),
        l[i + 3] = add16 sk[i] (rotr16 l[i] 7) ^^^ BitVec.ofNat 16 i ∧
          sk[i + 1] = rotl16 sk[i] 2 ^^^ l[i + 3]

/-- `ct` is `pt` after the 22 encryption rounds of R87 with `sk[0], sk[1], ..., sk[21]` (R90): `st[i]` is the state before
round `i`. -/
def IsEncryption (pt : BitVec 32) (sk : SubkeyArray) (ct : BitVec 32) : Prop :=
  ∃ st : Vector Halves 23,
    st[0] = { p1 := pt.extractLsb' 16 16, p2 := pt.extractLsb' 0 16 } ∧
      (∀ (i : Nat) (_ : i < 22),
        st[i + 1].p1 = add16 (rotr16 st[i].p1 7) st[i].p2 ^^^ sk[i] ∧
          st[i + 1].p2 = rotl16 st[i].p2 2 ^^^ st[i + 1].p1) ∧
      ct = st[22].p1 ++ st[22].p2

/-- `pt` is `ct` after the 22 decryption rounds of R88 with `sk[21], sk[20], ..., sk[0]` (R91): `st[i + 1]` is the state
before the round with `sk[i]`. -/
def IsDecryption (ct : BitVec 32) (sk : SubkeyArray) (pt : BitVec 32) : Prop :=
  ∃ st : Vector Halves 23,
    st[22] = { p1 := ct.extractLsb' 16 16, p2 := ct.extractLsb' 0 16 } ∧
      (∀ (i : Nat) (_ : i < 22),
        st[i].p2 = rotr16 (st[i + 1].p1 ^^^ st[i + 1].p2) 2 ∧
          st[i].p1 = rotl16 (sub16 (st[i + 1].p1 ^^^ sk[i]) st[i].p2) 7) ∧
      pt = st[0].p1 ++ st[0].p2

/-- `n` is the length R101 leaves of the message `msg[0..len-1]`: the fill down to byte `m` is removed, and then at most
one marker. -/
def IsUnpadLength (msg : List Byte) (len n : Nat) : Prop :=
  ∃ m, m ≤ len ∧ (∀ j, m ≤ j → j < len → msg[j]? = some 0x00) ∧ (0 < m → msg[m - 1]? ≠ some 0x00) ∧
    n = if 0 < m ∧ msg[m - 1]? = some 0x80 then m - 1 else m

/-! ### Port protocols -/

/-- Run events one after the other; none where one has no next state. -/
def runEvents : List Event → State → Option State
  | [], s => some s
  | e :: es, s =>
    match runEvent e s with
    | .next t => runEvents es t
    | .fault _ => none
    | .refused _ => none

/-- What a host does at the ports for one statement of unit `u` (R64), `p` being what it drives before: request, start for
one edge, `k` more edges, the completing edge, and the reads of the result ports. -/
def protocolEvents (u : UnitName) (request : Ports → Ports) (p : Ports) (k : Nat) : List Event :=
  [.drive (request p), .edge .nobody, .drive (request p).quiet] ++ List.replicate k (.edge .nobody) ++
    [.edge (.only u)] ++ (resultPorts u).map .read

/-- Run a list of edges, each with the input ports driven before it and the schedule's choice at it. -/
def runEdges (es : List (Ports × Completes)) (s : State) : State :=
  es.foldl (fun s e => clockEdge e.2 (drivePorts e.1 s)) s

/-- The state after `k` steps; none where one has no next state. -/
def afterSteps : (k : Nat) → State → Option State
  | 0, s => some s
  | k + 1, s =>
    match step s with
    | .next t => afterSteps k t
    | .fault _ => none
    | .refused _ => none

/-- An infinite run of the machine. -/
def IsRun (run : Nat → State) : Prop := ∀ n, step (run n) = .next (run (n + 1))

/-- Weak fairness of a run towards one unit (R131): it does not stay Busy for ever with no reset and no start of it. A start
of a Busy unit is the fault StartWhileBusy, and it does not complete at that edge (R116 a). -/
def fairTowards {Ops Res : Type} (status : State → UnitStatus Ops Res) (start : Ports → Bool) (run : Nat → State) : Prop :=
  ∀ n, ∃ m, n ≤ m ∧
    (busyFlag (status (run m)) = false ∨ (run m).ports.rst = true ∨ start (run m).ports = true)

/-- Weak fairness of a run towards every unit (R131). -/
def WeaklyFair (run : Nat → State) : Prop :=
  fairTowards State.ks Ports.ksStart run ∧ fairTowards State.enc Ports.encStart run ∧
    fairTowards State.dec Ports.decStart run ∧ fairTowards State.up Ports.upStart run

/-- No unit's start is asserted and `rst` is low. -/
def portsQuiet (p : Ports) : Prop := p.quiet = p

/-- `s` and `t` have the same four unit statuses. -/
def sameUnits (s t : State) : Prop := s.ks = t.ks ∧ s.enc = t.enc ∧ s.dec = t.dec ∧ s.up = t.up

end Sys2Proof.Machine
end

