-- ==== Sys2Proof/Certificates/Slice0/Obligations.lean ====
section
/-! DEFINITION. The statements for the provers, from the numbered rules of spec/. -/

open Sys2Proof Sys2Proof.Machine

/-! ### Word algebra and formats -/

/-- R68, R69: the rotations as integers and bit by bit, for `0 <= n <= 15`. -/
def Obligations.RotationsMoveEveryBit : Prop :=
  ∀ (x : Word) (n : Nat), n ≤ 15 →
    (rotl16 x n).toNat = (x.toNat * 2 ^ n ||| x.toNat / 2 ^ (16 - n)) % 2 ^ 16 ∧
    (rotr16 x n).toNat = (x.toNat / 2 ^ n ||| x.toNat * 2 ^ (16 - n)) % 2 ^ 16 ∧
    ∀ j, j < 16 →
      (rotl16 x n).getLsbD j = x.getLsbD ((j + 16 - n) % 16) ∧ (rotr16 x n).getLsbD j = x.getLsbD ((j + n) % 16)

/-- R70, R71, R72, and from R11: addition and subtraction modulo 2^16, `sub16(a, b)` is the only word whose sum with `b` is
`a`, exclusive or bit by bit, and the zero-extension of a number below 2^16. -/
def Obligations.AdditionAndSubtractionWrap : Prop :=
  (∀ a b : Word,
    (add16 a b).toNat = (a.toNat + b.toNat) % 2 ^ 16 ∧
    (sub16 a b).toNat = (a.toNat + 2 ^ 16 - b.toNat) % 2 ^ 16 ∧
    (∀ d : Word, add16 d b = a ↔ d = sub16 a b) ∧
    ∀ j, j < 16 → (xor16 a b).getLsbD j = (a.getLsbD j != b.getLsbD j)) ∧
  ∀ i, i < 2 ^ 16 → (zext16 i).toNat = i

/-- R74: the six laws of the word algebra. -/
def Obligations.WordAlgebraLaws : Prop :=
  ∀ (a b x : Word) (n : Nat), n ≤ 15 →
    rotr16 (rotl16 x n) n = x ∧ rotl16 (rotr16 x n) n = x ∧
    sub16 (add16 a b) b = a ∧ add16 (sub16 a b) b = a ∧
    xor16 (xor16 a b) b = a ∧ (1 ≤ n → rotr16 x n = rotl16 x (16 - n))

/-- R34, R54: the key's bytes make the four words, and the key is the concatenation of `k3, k2, k1, k0`. -/
def Obligations.KeyBytesMakeTheKeyWords : Prop :=
  ∀ b0 b1 b2 b3 b4 b5 b6 b7 : Byte,
    let key := keyOfBytes b0 b1 b2 b3 b4 b5 b6 b7
    keyK0 key = b6 ++ b7 ∧ keyK1 key = b4 ++ b5 ∧ keyK2 key = b2 ++ b3 ∧ keyK3 key = b0 ++ b1 ∧
      key = keyK3 key ++ keyK2 key ++ keyK1 key ++ keyK0 key ∧
      key.extractLsb' 56 8 = b0 ∧ key.extractLsb' 48 8 = b1 ∧ key.extractLsb' 40 8 = b2 ∧
      key.extractLsb' 32 8 = b3 ∧ key.extractLsb' 24 8 = b4 ∧ key.extractLsb' 16 8 = b5 ∧
      key.extractLsb' 8 8 = b6 ∧ key.extractLsb' 0 8 = b7

/-- R55, and R35's byte order: the block's bytes make the two words, and the words packed again are the same bytes. -/
def Obligations.BlockBytesMakeTheBlockWords : Prop :=
  ∀ b0 b1 b2 b3 : Byte,
    let blk := blockOfBytes b0 b1 b2 b3
    blockP1 blk = b0 ++ b1 ∧ blockP2 blk = b2 ++ b3 ∧ blockOfWords (blockP1 blk) (blockP2 blk) = blk ∧
      bytesOfBlock blk = [b0, b1, b2, b3] ∧
      ∀ p1 p2 : Word,
        bytesOfBlock (blockOfWords p1 p2) =
          [p1.extractLsb' 8 8, p1.extractLsb' 0 8, p2.extractLsb' 8 8, p2.extractLsb' 0 8]

/-- R56: in the flat value of a subkey array `sk[i]` stands in bits `[16i+15:16i]`, and nothing stands above bit 351. -/
def Obligations.FlatSubkeysHoldTheirLanes : Prop :=
  ∀ sk : SubkeyArray,
    packSka sk / 2 ^ (16 * 22) = 0 ∧ ∀ (i : Nat) (_ : i < 22), packSka sk / 2 ^ (16 * i) % 2 ^ 16 = sk[i].toNat

/-- From R57: in the flat value of a message byte `j` stands in bits `[8j+7:8j]`; a message port has exactly MAX_LEN
lanes, and a message of MAX_LEN bytes is its lanes (the model's filling of a shorter list is log entry 10). -/
def Obligations.MessageLanesHoldTheirBytes : Prop :=
  (∀ (msg : List Byte) (j : Nat) (_ : j < msg.length), packLanes 8 msg / 2 ^ (8 * j) % 2 ^ 8 = msg[j].toNat) ∧
    ∀ (maxLen : Nat) (msg : List Byte),
      (lanesOf maxLen msg).length = maxLen ∧
        ∀ j, j < maxLen → (lanesOf maxLen msg)[j]? = some (msg.getD j 0)

/-- From R9: LEN_W is the least width of at least 1 that holds MAX_LEN. -/
def Obligations.LengthWidthIsTheLeast : Prop :=
  ∀ maxLen, 1 ≤ lenW maxLen ∧ maxLen < 2 ^ lenW maxLen ∧ ∀ w, 1 ≤ w → maxLen < 2 ^ w → lenW maxLen ≤ w

/-! ### The pure functions -/

/-- R77, R78, R80: the key schedule satisfies the seeds and the recurrence, and no other array does. -/
def Obligations.KeyScheduleIsTheRecurrence : Prop :=
  ∀ (key : BitVec 64) (sk : SubkeyArray), IsKeySchedule key sk ↔ sk = keySchedule key

/-- R82: subkey 0 is the low word of the key, the word of key bytes [6..7]. -/
def Obligations.SubkeyZeroIsTheLowKeyWord : Prop :=
  ∀ key : BitVec 64, (keySchedule key)[0] = key.extractLsb' 0 16

/-- R87, R88: the two rounds. -/
def Obligations.RoundFunctionsAsWritten : Prop :=
  ∀ p1 p2 k : Word,
    (encRound { p1 := p1, p2 := p2 } k =
      let p1' := (rotr16 p1 7 + p2) ^^^ k
      { p1 := p1', p2 := rotl16 p2 2 ^^^ p1' }) ∧
    (decRound { p1 := p1, p2 := p2 } k =
      let p2' := rotr16 (p1 ^^^ p2) 2
      { p1 := rotl16 ((p1 ^^^ k) - p2') 7, p2 := p2' })

/-- R89: the decryption round is the exact inverse of the encryption round, both ways. -/
def Obligations.RoundsAreInverse : Prop :=
  ∀ (p : Halves) (k : Word), decRound (encRound p k) k = p ∧ encRound (decRound p k) k = p

/-- R90: EncryptBlock is the 22 forward rounds in increasing index order, between unpacking and packing. -/
def Obligations.EncryptBlockIsTheForwardRounds : Prop :=
  ∀ (pt : BitVec 32) (sk : SubkeyArray) (ct : BitVec 32), IsEncryption pt sk ct ↔ ct = encryptBlock pt sk

/-- R91: DecryptBlock is the 22 inverse rounds in decreasing index order. -/
def Obligations.DecryptBlockIsTheInverseRounds : Prop :=
  ∀ (ct : BitVec 32) (sk : SubkeyArray) (pt : BitVec 32), IsDecryption ct sk pt ↔ pt = decryptBlock ct sk

/-- R94: the round trip, for every array and in both orders, and so for the array of every key. -/
def Obligations.BlockRoundTrip : Prop :=
  ∀ (b : BitVec 32) (sk : SubkeyArray),
    decryptBlock (encryptBlock b sk) sk = b ∧ encryptBlock (decryptBlock b sk) sk = b

/-- R101: Unpad removes the fill and then at most one marker, and no other length satisfies that. -/
def Obligations.UnpadRemovesFillThenOneMarker : Prop :=
  ∀ (msg : List Byte) (len : Nat), len ≤ msg.length → ∀ n, IsUnpadLength msg len n ↔ n = unpadLen msg len

/-- R105: the empty message has length 0 after Unpad; and (from R60, R100) no byte at or above the length is read. -/
def Obligations.UnpadReadsOnlyTheMessage : Prop :=
  (∀ msg : List Byte, unpadLen msg 0 = 0) ∧
    ∀ (len : Nat) (msg other : List Byte), (∀ j, j < len → msg[j]? = other[j]?) → unpadLen msg len = unpadLen other len

/-- From R106: whatever the bytes of P are, P with one marker and any fill behind it unpads to P's length; bytes behind the
message do not matter. -/
def Obligations.UnpadRecoversThePaddedMessage : Prop :=
  ∀ (p rest : List Byte) (k : Nat),
    unpadLen (p ++ 0x80 :: List.replicate k 0x00 ++ rest) (p.length + 1 + k) = p.length

/-- From R107: fill is removed without a marker before it, and a data byte `0x80` at the end is removed as a marker. -/
def Obligations.UnpadIsUnconditional : Prop :=
  ∀ (p : List Byte) (b : Byte) (k : Nat), b ≠ 0x00 → b ≠ 0x80 →
    unpadLen (p ++ b :: List.replicate k 0x00) (p.length + 1 + k) = p.length + 1 ∧
      unpadLen (p ++ [0x80]) (p.length + 1) = p.length

/-- From R108: the length never grows, and every removed byte is fill, but for at most one marker at the new length. -/
def Obligations.RemovedBytesAreFillOrTheMarker : Prop :=
  ∀ (msg : List Byte) (len : Nat), len ≤ msg.length →
    unpadLen msg len ≤ len ∧
      ∀ j, unpadLen msg len ≤ j → j < len →
        msg[j]? = some 0x00 ∨ (j = unpadLen msg len ∧ msg[j]? = some 0x80)

/-- From R66 (PAD): the marker is always appended, then the least fill that makes the length a multiple of 4. -/
def Obligations.PadAlwaysAppendsTheMarker : Prop :=
  ∀ msg : List Byte, ∃ k, k ≤ 3 ∧ padMessage msg = msg ++ 0x80 :: List.replicate k 0x00 ∧ (padMessage msg).length % 4 = 0

/-! ### The instructions -/

/-- From R81: KSCHED completes in every state, with the subkey array of its key on `ks_sk`, `ks_done` 1 and `ks_busy` 0, and
raises nothing. -/
def Obligations.KschedPresentsTheSubkeys : Prop :=
  ∀ (key : BitVec 64) (s : State), ∃ t sk,
    exec (.ksched key) s = .next t ∧ IsKeySchedule key sk ∧ t.ks = .done sk ∧
      portValue .ksSk t = some (.subkeys sk) ∧ portValue .ksBusy t = some (.flag false) ∧
      portValue .ksDone t = some (.flag true) ∧ t.faults = s.faults

/-- From R92: ENC completes in every state, with every block and every array, the ciphertext on `enc_ct`. -/
def Obligations.EncPresentsTheCiphertext : Prop :=
  ∀ (pt : BitVec 32) (sk : SubkeyArray) (s : State), ∃ t ct,
    exec (.enc pt sk) s = .next t ∧ IsEncryption pt sk ct ∧ t.enc = .done ct ∧
      portValue .encCt t = some (.block ct) ∧ portValue .encBusy t = some (.flag false) ∧
      portValue .encDone t = some (.flag true) ∧ t.faults = s.faults

/-- From R93: DEC completes in every state, with every block and every array, the plaintext on `dec_pt`. -/
def Obligations.DecPresentsThePlaintext : Prop :=
  ∀ (ct : BitVec 32) (sk : SubkeyArray) (s : State), ∃ t pt,
    exec (.dec ct sk) s = .next t ∧ IsDecryption ct sk pt ∧ t.dec = .done pt ∧
      portValue .decPt t = some (.block pt) ∧ portValue .decBusy t = some (.flag false) ∧
      portValue .decDone t = some (.flag true) ∧ t.faults = s.faults

/-- R102, and from R103: UNPAD of a message of MAX_LEN lanes with a length in range completes in every state: the bytes unchanged
on `up_msg_out`, the length of R101 on `up_len_out`. -/
def Obligations.UnpadPresentsTheTrimmedMessage : Prop :=
  ∀ (msg : List Byte) (len : Nat) (s : State), msg.length = s.maxLen → len ≤ s.maxLen → ∃ t n,
    exec (.unpad msg len) s = .next t ∧ IsUnpadLength msg len n ∧ t.up = .done { bytes := msg, len := n } ∧
      portValue .upMsgOut t = some (.bytes msg) ∧ portValue .upLenOut t = some (.length n) ∧
      portValue .upBusy t = some (.flag false) ∧ portValue .upDone t = some (.flag true) ∧ t.faults = s.faults

/-- From R100 and R114: UNPAD with a length above MAX_LEN records LengthOutOfRange with that length, leaves UNPAD Idle
and presents nothing. What the host keeps (nothing) is the model's reading of R64 (log entry 9). -/
def Obligations.UnpadRefusesLengthOutOfRange : Prop :=
  ∀ (msg : List Byte) (len : Nat) (s : State),
    msg.length = s.maxLen → s.maxLen < len → len < 2 ^ lenW s.maxLen → ∃ t,
      exec (.unpad msg len) s = .next t ∧ t.up = .idle ∧
        t.faults = s.faults ++ [{ fault := .lengthOutOfRange len, step := s.now }] ∧
        portValue .upMsgOut t = none ∧ portValue .upLenOut t = none ∧ t.received = s.received

/-- The frame of the four instructions (from R17, R42, R46; the ports a statement drives and what the host keeps are the
model's, log entries 5 and 9): the other units, the other operand ports, the parameter, the agenda and the step number
are unchanged; `rst` and every start end low; the host keeps the results of this unit and nothing else; no fault is
recorded but UNPAD's LengthOutOfRange. -/
def Obligations.InstructionFrames : Prop :=
  ∀ (i : Instr) (s t : State), exec i s = .next t →
    t.maxLen = s.maxLen ∧ t.agenda = s.agenda ∧ t.now = s.now ∧
    match i with
    | .ksched key =>
        t.enc = s.enc ∧ t.dec = s.dec ∧ t.up = s.up ∧ t.faults = s.faults ∧
          t.ports = { s.ports.quiet with ksKey := key } ∧
          t.received = s.received ++ [(.ksSk, .subkeys (keySchedule key))]
    | .enc pt sk =>
        t.ks = s.ks ∧ t.dec = s.dec ∧ t.up = s.up ∧ t.faults = s.faults ∧
          t.ports = { s.ports.quiet with encPt := pt, encSk := sk } ∧
          t.received = s.received ++ [(.encCt, .block (encryptBlock pt sk))]
    | .dec ct sk =>
        t.ks = s.ks ∧ t.enc = s.enc ∧ t.up = s.up ∧ t.faults = s.faults ∧
          t.ports = { s.ports.quiet with decCt := ct, decSk := sk } ∧
          t.received = s.received ++ [(.decPt, .block (decryptBlock ct sk))]
    | .unpad msg len =>
        t.ks = s.ks ∧ t.enc = s.enc ∧ t.dec = s.dec ∧
          t.ports = { s.ports.quiet with upMsg := msg, upLen := len } ∧
          ((t.faults = s.faults ∧ ∃ m, t.up = .done m ∧
              t.received = s.received ++ [(.upMsgOut, .bytes m.bytes), (.upLenOut, .length m.len)]) ∨
            (t.up = .idle ∧ t.received = s.received ∧
              ∃ n, s.maxLen < n ∧ t.faults = s.faults ++ [{ fault := .lengthOutOfRange n, step := s.now }]))

/-- From R64: a statement never raises StartWhileBusy or ReadNoValue. -/
def Obligations.StatementsNeverMisuseThePorts : Prop :=
  ∀ (i : Instr) (s t : State), exec i s = .next t →
    ∃ fs, t.faults = s.faults ++ fs ∧ ∀ r ∈ fs, ∃ n, s.maxLen < n ∧ r.fault = .lengthOutOfRange n

/-- From R64, as a refinement (the reading of its waits is the model's, log entry 9): from quiet ports and a unit that is not Busy, the statement is what a host does at the ports,
however many edges the unit takes. -/
def Obligations.StatementIsThePortProtocol : Prop :=
  ∀ (s : State) (k : Nat), portsQuiet s.ports →
    (busyFlag s.ks = false → ∀ key, ∃ t, exec (.ksched key) s = .next t ∧
      runEvents (protocolEvents .ks (requestKs key) s.ports k) s = some t) ∧
    (busyFlag s.enc = false → ∀ pt sk, ∃ t, exec (.enc pt sk) s = .next t ∧
      runEvents (protocolEvents .enc (requestEnc pt sk) s.ports k) s = some t) ∧
    (busyFlag s.dec = false → ∀ ct sk, ∃ t, exec (.dec ct sk) s = .next t ∧
      runEvents (protocolEvents .dec (requestDec ct sk) s.ports k) s = some t) ∧
    (busyFlag s.up = false → ∀ msg len, msg.length = s.maxLen → len ≤ s.maxLen →
      ∃ t, exec (.unpad msg len) s = .next t ∧
        runEvents (protocolEvents .up (requestUp msg len) s.ports k) s = some t)

/-- From R64: a statement on a Busy unit waits for it, so that the same statement after the unit's completing edge ends
in the same state. -/
def Obligations.StatementWaitsForABusyUnit : Prop :=
  ∀ s : State, portsQuiet s.ports →
    (∀ key, exec (.ksched key) s = exec (.ksched key) (clockEdge (.only .ks) s)) ∧
    (∀ pt sk, exec (.enc pt sk) s = exec (.enc pt sk) (clockEdge (.only .enc) s)) ∧
    (∀ ct sk, exec (.dec ct sk) s = exec (.dec ct sk) (clockEdge (.only .dec) s)) ∧
    (∀ msg len, exec (.unpad msg len) s = exec (.unpad msg len) (clockEdge (.only .up) s))

/-- From R45, R83, R95: what an instruction presents depends on its operands alone, whatever happened before. -/
def Obligations.ResultsDependOnOperandsAlone : Prop :=
  ∀ (i : Instr) (s t s' t' : State), s.maxLen = t.maxLen → exec i s = .next s' → exec i t = .next t' →
    match i with
    | .ksched _ => s'.ks = t'.ks
    | .enc _ _ => s'.enc = t'.enc
    | .dec _ _ => s'.dec = t'.dec
    | .unpad _ _ => s'.up = t'.up

/-! ### The ports -/

/-- R125, R126, and from R32 and R33: an edge with `rst = 1` makes every unit Idle and does nothing else, whatever is asserted and whatever
would complete; after it, and at launch, every busy and done is 0 and no result port has a value; the fault record is empty
at launch. -/
def Obligations.ResetMakesEveryUnitIdle : Prop :=
  (∀ (c : Completes) (s : State), s.ports.rst = true →
    clockEdge c s = { s with ks := .idle, enc := .idle, dec := .idle, up := .idle }) ∧
  (State.reset.ks = .idle ∧ State.reset.enc = .idle ∧ State.reset.dec = .idle ∧ State.reset.up = .idle ∧
    State.reset.faults = []) ∧
  ∀ s : State, (s = State.reset ∨ ∃ c r, r.ports.rst = true ∧ s = clockEdge c r) →
    portValue .ksBusy s = some (.flag false) ∧ portValue .ksDone s = some (.flag false) ∧
    portValue .encBusy s = some (.flag false) ∧ portValue .encDone s = some (.flag false) ∧
    portValue .decBusy s = some (.flag false) ∧ portValue .decDone s = some (.flag false) ∧
    portValue .upBusy s = some (.flag false) ∧ portValue .upDone s = some (.flag false) ∧
    portValue .ksSk s = none ∧ portValue .encCt s = none ∧ portValue .decPt s = none ∧
    portValue .upMsgOut s = none ∧ portValue .upLenOut s = none

/-- R127: an edge with `rst = 0` and a start asserted at a unit that is Idle or Done captures the operand ports and makes
the unit Busy, with busy 1, done 0 and no value on its result ports; UNPAD with a length above MAX_LEN becomes Idle with
LengthOutOfRange instead; a start at a Busy unit is StartWhileBusy. -/
def Obligations.StartsAreAcceptedUnlessBusy : Prop :=
  ∀ (c : Completes) (s t : State), s.ports.rst = false → t = clockEdge c s →
    (s.ports.ksStart = true →
      (busyFlag s.ks = false → t.ks = .busy s.ports.ksKey ∧ portValue .ksSk t = none ∧
        portValue .ksBusy t = some (.flag true) ∧ portValue .ksDone t = some (.flag false)) ∧
      (busyFlag s.ks = true → { fault := .startWhileBusy .ks, step := s.now } ∈ t.faults)) ∧
    (s.ports.encStart = true →
      (busyFlag s.enc = false →
        t.enc = .busy { block := s.ports.encPt, sk := s.ports.encSk } ∧ portValue .encCt t = none ∧
        portValue .encBusy t = some (.flag true) ∧ portValue .encDone t = some (.flag false)) ∧
      (busyFlag s.enc = true → { fault := .startWhileBusy .enc, step := s.now } ∈ t.faults)) ∧
    (s.ports.decStart = true →
      (busyFlag s.dec = false →
        t.dec = .busy { block := s.ports.decCt, sk := s.ports.decSk } ∧ portValue .decPt t = none ∧
        portValue .decBusy t = some (.flag true) ∧ portValue .decDone t = some (.flag false)) ∧
      (busyFlag s.dec = true → { fault := .startWhileBusy .dec, step := s.now } ∈ t.faults)) ∧
    (s.ports.upStart = true →
      (busyFlag s.up = false →
        portValue .upMsgOut t = none ∧ portValue .upLenOut t = none ∧
        if s.maxLen < s.ports.upLen % 2 ^ lenW s.maxLen then
          t.up = .idle ∧
            { fault := .lengthOutOfRange (s.ports.upLen % 2 ^ lenW s.maxLen), step := s.now } ∈ t.faults
        else
          t.up = .busy { bytes := lanesOf s.maxLen s.ports.upMsg, len := s.ports.upLen % 2 ^ lenW s.maxLen } ∧
            portValue .upBusy t = some (.flag true) ∧ portValue .upDone t = some (.flag false)) ∧
      (busyFlag s.up = true → { fault := .startWhileBusy .up, step := s.now } ∈ t.faults))

/-- From R128 (its transaction-level part): a Busy unit without a start completes at its completing edge with the value of
its function on the operands it captured, and then shows busy 0 and done 1. -/
def Obligations.BusyUnitsCompleteWithTheirResult : Prop :=
  ∀ (c : Completes) (s t : State), s.ports.rst = false → t = clockEdge c s →
    (∀ key, s.ks = .busy key → s.ports.ksStart = false → c.ks = true →
      ∃ sk, IsKeySchedule key sk ∧ t.ks = .done sk ∧ portValue .ksBusy t = some (.flag false) ∧
        portValue .ksDone t = some (.flag true) ∧ portValue .ksSk t = some (.subkeys sk)) ∧
    (∀ o, s.enc = .busy o → s.ports.encStart = false → c.enc = true →
      ∃ ct, IsEncryption o.block o.sk ct ∧ t.enc = .done ct ∧ portValue .encBusy t = some (.flag false) ∧
        portValue .encDone t = some (.flag true) ∧ portValue .encCt t = some (.block ct)) ∧
    (∀ o, s.dec = .busy o → s.ports.decStart = false → c.dec = true →
      ∃ pt, IsDecryption o.block o.sk pt ∧ t.dec = .done pt ∧ portValue .decBusy t = some (.flag false) ∧
        portValue .decDone t = some (.flag true) ∧ portValue .decPt t = some (.block pt)) ∧
    (∀ m, s.up = .busy m → m.len ≤ m.bytes.length → s.ports.upStart = false → c.up = true →
      ∃ n, IsUnpadLength m.bytes m.len n ∧ t.up = .done { bytes := m.bytes, len := n } ∧
        portValue .upBusy t = some (.flag false) ∧ portValue .upDone t = some (.flag true) ∧
        portValue .upMsgOut t = some (.bytes m.bytes) ∧ portValue .upLenOut t = some (.length n))

/-- From R113, R114, R116: a start at a Busy unit leaves that unit as it was, even at its completing edge. -/
def Obligations.StartWhileBusyLeavesTheUnit : Prop :=
  ∀ (c : Completes) (s : State), s.ports.rst = false →
    (s.ports.ksStart = true → busyFlag s.ks = true → (clockEdge c s).ks = s.ks) ∧
    (s.ports.encStart = true → busyFlag s.enc = true → (clockEdge c s).enc = s.enc) ∧
    (s.ports.decStart = true → busyFlag s.dec = true → (clockEdge c s).dec = s.dec) ∧
    (s.ports.upStart = true → busyFlag s.up = true → (clockEdge c s).up = s.up)

/-- From R113, R116: the faults one edge records, in the order KS, ENC, DEC, UNPAD; for UNPAD the start while Busy comes
before the length check. An edge of the cycle-level form is such an edge, of its own number, which its faults record (what
the numbers count is the model's, log entry 6). -/
def Obligations.EdgeFaultsInUnitOrder : Prop :=
  (∀ (c : Completes) (s : State), s.ports.rst = false →
    (clockEdge c s).faults = s.faults ++
      (([(s.ports.ksStart && busyFlag s.ks, Fault.startWhileBusy .ks),
        (s.ports.encStart && busyFlag s.enc, Fault.startWhileBusy .enc),
        (s.ports.decStart && busyFlag s.dec, Fault.startWhileBusy .dec),
        (s.ports.upStart && busyFlag s.up, Fault.startWhileBusy .up),
        (s.ports.upStart && !busyFlag s.up && decide (s.maxLen < s.ports.upLen % 2 ^ lenW s.maxLen),
          Fault.lengthOutOfRange (s.ports.upLen % 2 ^ lenW s.maxLen))].filter (·.1)).map
        fun f => { fault := f.2, step := s.now })) ∧
  ∀ (lat : Latencies) (p : Ports) (c : CycleState),
    (cycleEdge lat p c).machine =
      clockEdge (dueNow lat c) { c.machine with ports := p, now := c.machine.now + 1 }

/-- From R25 and R30, as R25's table: what each of the 13 output ports carries in every state, by its unit's status. busy is
1 exactly while Busy, done exactly while Done, never both, and a result port has a value exactly while its unit is Done. -/
def Obligations.FlagsFollowTheStatus : Prop :=
  (∀ s : State,
    (match s.ks with
      | .idle => portValue .ksBusy s = some (.flag false) ∧ portValue .ksDone s = some (.flag false) ∧
          portValue .ksSk s = none
      | .busy _ => portValue .ksBusy s = some (.flag true) ∧ portValue .ksDone s = some (.flag false) ∧
          portValue .ksSk s = none
      | .done sk => portValue .ksBusy s = some (.flag false) ∧ portValue .ksDone s = some (.flag true) ∧
          portValue .ksSk s = some (.subkeys sk)) ∧
    (match s.enc with
      | .idle => portValue .encBusy s = some (.flag false) ∧ portValue .encDone s = some (.flag false) ∧
          portValue .encCt s = none
      | .busy _ => portValue .encBusy s = some (.flag true) ∧ portValue .encDone s = some (.flag false) ∧
          portValue .encCt s = none
      | .done ct => portValue .encBusy s = some (.flag false) ∧ portValue .encDone s = some (.flag true) ∧
          portValue .encCt s = some (.block ct)) ∧
    (match s.dec with
      | .idle => portValue .decBusy s = some (.flag false) ∧ portValue .decDone s = some (.flag false) ∧
          portValue .decPt s = none
      | .busy _ => portValue .decBusy s = some (.flag true) ∧ portValue .decDone s = some (.flag false) ∧
          portValue .decPt s = none
      | .done pt => portValue .decBusy s = some (.flag false) ∧ portValue .decDone s = some (.flag true) ∧
          portValue .decPt s = some (.block pt)) ∧
    match s.up with
      | .idle => portValue .upBusy s = some (.flag false) ∧ portValue .upDone s = some (.flag false) ∧
          portValue .upMsgOut s = none ∧ portValue .upLenOut s = none
      | .busy _ => portValue .upBusy s = some (.flag true) ∧ portValue .upDone s = some (.flag false) ∧
          portValue .upMsgOut s = none ∧ portValue .upLenOut s = none
      | .done m => portValue .upBusy s = some (.flag false) ∧ portValue .upDone s = some (.flag true) ∧
          portValue .upMsgOut s = some (.bytes m.bytes) ∧ portValue .upLenOut s = some (.length m.len)) ∧
  ∀ (Ops Res : Type) (st : UnitStatus Ops Res),
    (busyFlag st && doneFlag st) = false ∧ (busyFlag st = true ↔ ∃ o, st = .busy o) ∧
      (doneFlag st = true ↔ ∃ r, st = .done r) ∧ (busyFlag st = false → doneFlag st = false → st = .idle) ∧
      ∀ r, resultOf st = some r ↔ st = .done r

/-- From R25, R39, R41: only an edge changes a unit's status: driving ports and reading ports leave all four units. -/
def Obligations.OnlyEdgesAndStatementsChangeUnits : Prop :=
  ∀ (s t : State) (e : Event) (rest : List Event), s.agenda = e :: rest → step s = .next t →
    ((∃ p, e = .drive p) ∨ ∃ p, e = .read p) → sameUnits t s

/-- From R25 and R131: at an edge without reset a unit without a start keeps its status unless it is Busy and completes. So a
unit that is Idle or Done keeps its status whatever the schedule says, and a Busy one where the schedule does not let it
complete. -/
def Obligations.QuietUnitsKeepTheirStatus : Prop :=
  ∀ (c : Completes) (s : State), s.ports.rst = false →
    (s.ports.ksStart = false → (busyFlag s.ks = false ∨ c.ks = false) → (clockEdge c s).ks = s.ks) ∧
    (s.ports.encStart = false → (busyFlag s.enc = false ∨ c.enc = false) → (clockEdge c s).enc = s.enc) ∧
    (s.ports.decStart = false → (busyFlag s.dec = false ∨ c.dec = false) → (clockEdge c s).dec = s.dec) ∧
    (s.ports.upStart = false → (busyFlag s.up = false ∨ c.up = false) → (clockEdge c s).up = s.up)

/-- From R130: a Done unit keeps its result through any edges without a start of it and without reset, whatever the other ports
carry and whatever the schedule says. -/
def Obligations.DoneUnitsHoldTheirResult : Prop :=
  ∀ (es : List (Ports × Completes)) (s : State), (∀ e ∈ es, e.1.rst = false) →
    (∀ r, s.ks = .done r → (∀ e ∈ es, e.1.ksStart = false) → (runEdges es s).ks = .done r) ∧
    (∀ r, s.enc = .done r → (∀ e ∈ es, e.1.encStart = false) → (runEdges es s).enc = .done r) ∧
    (∀ r, s.dec = .done r → (∀ e ∈ es, e.1.decStart = false) → (runEdges es s).dec = .done r) ∧
    (∀ r, s.up = .done r → (∀ e ∈ es, e.1.upStart = false) → (runEdges es s).up = .done r)

/-- R43: after an accepted start nothing the host does with the operand ports reaches the result: through any edges without
a start of the unit and without reset, the unit is Busy with the operands it captured, or Done with their result. -/
def Obligations.CapturedOperandsAreCopies : Prop :=
  ∀ (es : List (Ports × Completes)) (s : State), (∀ e ∈ es, e.1.rst = false) →
    (∀ o, s.ks = .busy o → (∀ e ∈ es, e.1.ksStart = false) →
      (runEdges es s).ks = .busy o ∨ (runEdges es s).ks = .done (keySchedule o)) ∧
    (∀ o, s.enc = .busy o → (∀ e ∈ es, e.1.encStart = false) →
      (runEdges es s).enc = .busy o ∨ (runEdges es s).enc = .done (encryptBlock o.block o.sk)) ∧
    (∀ o, s.dec = .busy o → (∀ e ∈ es, e.1.decStart = false) →
      (runEdges es s).dec = .busy o ∨ (runEdges es s).dec = .done (decryptBlock o.block o.sk)) ∧
    (∀ m, s.up = .busy m → (∀ e ∈ es, e.1.upStart = false) →
      (runEdges es s).up = .busy m ∨
        (runEdges es s).up = .done { bytes := m.bytes, len := unpadLen m.bytes m.len })

/-- From R17, R45, R46: a unit's next status depends on its own status, its own ports, `rst` and its own completing edge
alone (and UNPAD's on MAX_LEN). -/
def Obligations.UnitsAreIndependent : Prop :=
  ∀ (c d : Completes) (s t : State), s.ports.rst = t.ports.rst →
    (s.ks = t.ks → s.ports.ksStart = t.ports.ksStart → s.ports.ksKey = t.ports.ksKey → c.ks = d.ks →
      (clockEdge c s).ks = (clockEdge d t).ks) ∧
    (s.enc = t.enc → s.ports.encStart = t.ports.encStart → s.ports.encPt = t.ports.encPt →
      s.ports.encSk = t.ports.encSk → c.enc = d.enc → (clockEdge c s).enc = (clockEdge d t).enc) ∧
    (s.dec = t.dec → s.ports.decStart = t.ports.decStart → s.ports.decCt = t.ports.decCt →
      s.ports.decSk = t.ports.decSk → c.dec = d.dec → (clockEdge c s).dec = (clockEdge d t).dec) ∧
    (s.maxLen = t.maxLen → s.up = t.up → s.ports.upStart = t.ports.upStart → s.ports.upMsg = t.ports.upMsg →
      s.ports.upLen = t.ports.upLen → c.up = d.up → (clockEdge c s).up = (clockEdge d t).up)

/-- From R41, R113, R131, R134: a read gives the host the port's value and changes nothing of the block; a read of a
result port of a unit that is not Done gives nothing and records ReadNoValue with the unit and the port. What the host
keeps is the model's own (log entry 5). -/
def Obligations.ReadsGiveTheResultOrReadNoValue : Prop :=
  ∀ (p : OutPort) (s : State),
    (∀ v, portValue p s = some v → hostRead p s = { s with received := s.received ++ [(p, v)] }) ∧
    (portValue p s = none ↔ ∃ u, p ∈ resultPorts u ∧ match u with
      | .ks => doneFlag s.ks = false
      | .enc => doneFlag s.enc = false
      | .dec => doneFlag s.dec = false
      | .up => doneFlag s.up = false) ∧
    (portValue p s = none → ∃ u, p ∈ resultPorts u ∧
      hostRead p s = { s with faults := s.faults ++ [{ fault := .readNoValue u p, step := s.now }] })

/-- From R42, R125: nothing the block does writes an input port: an edge and a read leave them all. -/
def Obligations.TheBlockNeverWritesItsInputs : Prop :=
  ∀ (c : Completes) (p : OutPort) (s : State), (clockEdge c s).ports = s.ports ∧ (hostRead p s).ports = s.ports

/-! ### Encoding -/

/-- Decoding an encoded well-formed transaction gives it back, for every capacity, every operation and every operand value
(R51, R52, R54 to R58; the places of the operands in one number are the model's, log entry 2). -/
def Obligations.DecodeOfEncodeIsTheTransaction : Prop :=
  ∀ (maxLen : Nat) (i : Instr), i.wellFormed maxLen = true → decode maxLen (encode maxLen i) = .ok i

/-- Every number that decodes is the encoding of the well-formed transaction it decodes to: each has one meaning (R52; log
entry 2). -/
def Obligations.DecodedNumbersAreEncodings : Prop :=
  ∀ (maxLen code : Nat) (i : Instr), decode maxLen code = .ok i →
    i.wellFormed maxLen = true ∧ encode maxLen i = code

/-- From R52, R60: decoding refuses exactly the numbers with more bits than their operation's transaction has; no value of
the operation identifier and no operand bit within the size is refused. -/
def Obligations.OnlyOversizeNumbersAreRejected : Prop :=
  ∀ (maxLen code : Nat),
    decode maxLen code = .error .oversize ↔
      2 ^ operandBits maxLen (opIdOfBits (BitVec.ofNat 2 code)) ≤ code / 4

/-- From R51 and R60: the four identifiers are 00 KSCHED, 01 ENC, 10 DEC, 11 UNPAD, and the low two bits alone tell which. -/
def Obligations.LowBitsSelectTheOperation : Prop :=
  ∀ (maxLen code : Nat) (i : Instr), decode maxLen code = .ok i →
    match i with
    | .ksched _ => code % 4 = 0
    | .enc _ _ => code % 4 = 1
    | .dec _ _ => code % 4 = 2
    | .unpad _ _ => code % 4 = 3

/-- A few words written out from the formats (R51, R54, R55; their places in one number: log entry 2): sanity. -/
def Obligations.WrittenOutWordsDecode : Prop :=
  decode 0 (0x1918111009080100 * 4 + 0) = .ok (.ksched 0x1918111009080100) ∧
    decode 0 ((0x6574694C + 2 ^ 32 * 0x0100) * 4 + 1) =
      .ok (.enc 0x6574694C ((Vector.replicate 22 0).set 0 0x0100)) ∧
    decode 0 ((0xA86842F2 + 2 ^ 48 * 0x1512) * 4 + 2) =
      .ok (.dec 0xA86842F2 ((Vector.replicate 22 0).set 1 0x1512)) ∧
    decode 2 ((2 + 2 ^ 2 * 0x8041) * 4 + 3) = .ok (.unpad [0x41, 0x80] 2)

/-! ### Steps -/

/-- What a step is, by the next event of the agenda (from R52, R64, R116, R131; the agenda is the model's, log entries 4 and
7), always on the state with the event taken off and the step counted: a transaction that decodes runs that instruction, a
drive drives the ports, an edge is a clock edge with its schedule, a read is a read; with nothing left it is a clock edge
under the free schedule. A word placed by withFetchWord in the reset state is run as its instruction. -/
def Obligations.StepRunsTheDecodedInstruction : Prop :=
  (∀ (s : State) (code : Nat) (rest : List Event) (i : Instr),
    s.agenda = .transaction code :: rest → decode s.maxLen code = .ok i →
      step s = exec i { s with agenda := rest, now := s.now + 1 }) ∧
  (∀ (s : State) (p : Ports) (rest : List Event), s.agenda = .drive p :: rest →
    step s = .next { s with agenda := rest, now := s.now + 1, ports := p }) ∧
  (∀ (s : State) (c : Completes) (rest : List Event), s.agenda = .edge c :: rest →
    step s = .next (clockEdge c { s with agenda := rest, now := s.now + 1 })) ∧
  (∀ (s : State) (p : OutPort) (rest : List Event), s.agenda = .read p :: rest →
    step s = .next (hostRead p { s with agenda := rest, now := s.now + 1 })) ∧
  (∀ s : State, s.agenda = [] →
    step s = .next (clockEdge (freeSchedule (s.now + 1)) { s with now := s.now + 1 })) ∧
  ∀ (nbits w : Nat) (i : Instr), decodeTableWord nbits w = some i →
    step (State.reset.withFetchWord nbits w) = exec i { State.reset with now := 1 }

/-- Every step has a next state, but for a number on the agenda that has more bits than its operation's transaction; no
step faults (faults are recorded: R31, R113; log entry 12). -/
def Obligations.StepsGoOnUnlessTheNumberIsNoTransaction : Prop :=
  ∀ s : State, (∃ t, step s = .next t) ∨
    (step s = .refused .badTransaction ∧ ∃ code rest, s.agenda = .transaction code :: rest ∧
      2 ^ operandBits s.maxLen (opIdOfBits (BitVec.ofNat 2 code)) ≤ code / 4)

/-- From R31 (what counts as final is the model's, log entry 13): the fault record is empty at launch; every step only appends to it; a state with a fault is never final. -/
def Obligations.TheFaultRecordOnlyGrows : Prop :=
  State.reset.faults = [] ∧
    (∀ s t : State, step s = .next t → ∃ fs, t.faults = s.faults ++ fs) ∧
    ∀ s : State, s.faults ≠ [] → s.final = false

/-- From R9, R33: MAX_LEN is no state: no step changes it. -/
def Obligations.TheCapacityNeverChanges : Prop :=
  ∀ s t : State, step s = .next t → t.maxLen = s.maxLen

/-- Every step keeps the invariant, in every state that meets it (from R26, R57, R100, R113): UNPAD holds messages of
exactly MAX_LEN bytes with a length in range, and the record holds possible faults of steps already begun. -/
def Obligations.EveryStepKeepsTheInvariant : Prop :=
  ∀ s t : State, s.Inv → step s = .next t → t.Inv

/-- The invariant holds at reset. -/
def Obligations.ResetMeetsTheInvariant : Prop := State.reset.Inv

/-- From R26: the length UNPAD holds never exceeds the bytes it holds, in every state that meets the invariant, so that
R101's scan reads only bytes of the message. -/
def Obligations.TheInvariantKeepsTheScanInRange : Prop :=
  ∀ (s : State) (m : Message), s.Inv → (s.up = .busy m ∨ s.up = .done m) → m.len ≤ m.bytes.length

/-- From R131: every infinite run of step is weakly fair, and a unit that is Busy when the host has stopped, with `rst` and
its start low, is Done with the result of its captured operands after some number of steps. -/
def Obligations.RunsAreWeaklyFair : Prop :=
  (∀ run : Nat → State, IsRun run → WeaklyFair run) ∧
  ∀ s : State, s.agenda = [] → s.ports.rst = false →
    (∀ o, s.ks = .busy o → s.ports.ksStart = false →
      ∃ k t, afterSteps k s = some t ∧ t.ks = .done (keySchedule o)) ∧
    (∀ o, s.enc = .busy o → s.ports.encStart = false →
      ∃ k t, afterSteps k s = some t ∧ t.enc = .done (encryptBlock o.block o.sk)) ∧
    (∀ o, s.dec = .busy o → s.ports.decStart = false →
      ∃ k t, afterSteps k s = some t ∧ t.dec = .done (decryptBlock o.block o.sk)) ∧
    (∀ m, s.up = .busy m → s.ports.upStart = false →
      ∃ k t, afterSteps k s = some t ∧ t.up = .done { bytes := m.bytes, len := unpadLen m.bytes m.len })

/-! ### Cycles and host programs -/

/-- From R128 and R131: in the cycle-level model a unit accepted at an edge is Busy after each of the next LAT_u - 1 edges
without a start of it and without reset, and Done after the LAT_u-th (`lat` gives LAT_u - 1). -/
def Obligations.CompletionIsAtTheLatencysEdge : Prop :=
  ∀ (lat : Latencies) (c : CycleState) (p : Ports) (ps : List Ports), p.rst = false → (∀ q ∈ ps, q.rst = false) →
    (p.ksStart = true → busyFlag c.machine.ks = false → (∀ q ∈ ps, q.ksStart = false) →
      let t := cycleRun lat ps (cycleEdge lat p c)
      (ps.length ≤ lat.ks p.ksKey → t.machine.ks = .busy p.ksKey) ∧
        (lat.ks p.ksKey < ps.length → t.machine.ks = .done (keySchedule p.ksKey))) ∧
    (p.encStart = true → busyFlag c.machine.enc = false → (∀ q ∈ ps, q.encStart = false) →
      let t := cycleRun lat ps (cycleEdge lat p c)
      let o : CipherOps := { block := p.encPt, sk := p.encSk }
      (ps.length ≤ lat.enc o → t.machine.enc = .busy o) ∧
        (lat.enc o < ps.length → t.machine.enc = .done (encryptBlock p.encPt p.encSk))) ∧
    (p.decStart = true → busyFlag c.machine.dec = false → (∀ q ∈ ps, q.decStart = false) →
      let t := cycleRun lat ps (cycleEdge lat p c)
      let o : CipherOps := { block := p.decCt, sk := p.decSk }
      (ps.length ≤ lat.dec o → t.machine.dec = .busy o) ∧
        (lat.dec o < ps.length → t.machine.dec = .done (decryptBlock p.decCt p.decSk))) ∧
    (p.upStart = true → busyFlag c.machine.up = false → (∀ q ∈ ps, q.upStart = false) →
      (sampledMessage c.machine.maxLen p).len ≤ c.machine.maxLen →
      let t := cycleRun lat ps (cycleEdge lat p c)
      let m := sampledMessage c.machine.maxLen p
      (ps.length ≤ lat.up m → t.machine.up = .busy m) ∧
        (lat.up m < ps.length → t.machine.up = .done { bytes := m.bytes, len := unpadLen m.bytes m.len }))

/-- From R66, R94, R106 (the source's padding round trip, for every message and every subkey array): pad, ENCMSG, DECMSG
gives the message back, if the padded message fits UNPAD. And ENCMSG and DECMSG drop a trailing group of fewer than 4 bytes:
they need the bytes of the whole groups only, and do what they do on those bytes alone. -/
def Obligations.MessageRoundTrip : Prop :=
  (∀ (p : List Byte) (sk : SubkeyArray) (s : State), (padMessage p).length ≤ s.maxLen →
    ∃ y s1 m s2,
      encMessage (padMessage p) (padMessage p).length sk s = some (y, s1) ∧
        decMessage y (padMessage p).length sk s1 = some (m, s2) ∧
        m.len = p.length ∧ m.bytes.take m.len = p) ∧
  ∀ (msg : List Byte) (len : Nat) (sk : SubkeyArray) (s : State), 4 * (len / 4) ≤ msg.length →
    (∃ y s1, encMessage msg len sk s = some (y, s1) ∧ y.length = 4 * (len / 4)) ∧
      (4 * (len / 4) ≤ s.maxLen → ∃ m s1, decMessage msg len sk s = some (m, s1)) ∧
      encMessage msg len sk s = encMessage (msg.take (4 * (len / 4))) (4 * (len / 4)) sk s ∧
      decMessage msg len sk s = decMessage (msg.take (4 * (len / 4))) (4 * (len / 4)) sk s

/-- From R66 and R136: `ENCK` is KSCHED and then ENC with its result, `DECK` the same with DEC. -/
def Obligations.EncKAndDecKUseTheKeysSubkeys : Prop :=
  ∀ (v : Nat) (blk : BitVec 32) (key : BitVec 64) (h : HostState), ∃ h1 h2,
    runStmt (.encK v (.lit (.block blk)) (.lit (.key key))) h = some h1 ∧
      operandValue h1 (.var v) = some (.block (encryptBlock blk (keySchedule key))) ∧
      h1.block.ks = .done (keySchedule key) ∧ h1.block.enc = .done (encryptBlock blk (keySchedule key)) ∧
    runStmt (.decK v (.lit (.block blk)) (.lit (.key key))) h = some h2 ∧
      operandValue h2 (.var v) = some (.block (decryptBlock blk (keySchedule key))) ∧
      h2.block.ks = .done (keySchedule key) ∧ h2.block.dec = .done (decryptBlock blk (keySchedule key))
end

