-- ==== Sys2Proof/Laws/Formats.lean ====
section
/-! SUPPORT. The lane packing, the lanes of a message port, and the width of a length. -/

namespace Sys2Proof.Machine

@[simp] theorem length_unpackLanes (w n v : Nat) : (unpackLanes w n v).length = n := unpackLanes_length w n v

/-- A flat vector fits the bits of its lanes. -/
theorem packLanes_lt (w : Nat) (xs : List (BitVec w)) : packLanes w xs < 2 ^ (w * xs.length) := by
  induction xs with
  | nil => simp [packLanes]
  | cons x xs ih =>
    have hx := x.isLt
    have hsplit : 2 ^ (w * (x :: xs).length) = 2 ^ w * 2 ^ (w * xs.length) := by
      rw [← pow_add]; congr 1; simp; ring
    have hle : packLanes w xs + 1 ≤ 2 ^ (w * xs.length) := ih
    calc packLanes w (x :: xs) = x.toNat + 2 ^ w * packLanes w xs := rfl
      _ < 2 ^ w * (packLanes w xs + 1) := by rw [Nat.mul_add]; omega
      _ ≤ 2 ^ w * 2 ^ (w * xs.length) := Nat.mul_le_mul_left _ hle
      _ = _ := hsplit.symm

/-- Unpacking a packed list of lanes gives the lanes. -/
theorem unpackLanes_packLanes (w : Nat) (xs : List (BitVec w)) : unpackLanes w xs.length (packLanes w xs) = xs := by
  induction xs with
  | nil => rfl
  | cons x xs ih =>
    have hpos : 0 < 2 ^ w := Nat.two_pow_pos w
    have hdiv : (x.toNat + 2 ^ w * packLanes w xs) / 2 ^ w = packLanes w xs := by
      rw [Nat.add_mul_div_left _ _ hpos, Nat.div_eq_of_lt x.isLt, Nat.zero_add]
    have hmod : BitVec.ofNat w (x.toNat + 2 ^ w * packLanes w xs) = x := by
      apply BitVec.eq_of_toNat_eq
      simp [Nat.add_mul_mod_self_left, Nat.mod_eq_of_lt x.isLt]
    simp only [List.length_cons, packLanes, unpackLanes, hdiv, hmod, ih]

/-- Packing the unpacked lanes gives the low bits. -/
theorem packLanes_unpackLanes (w n v : Nat) : packLanes w (unpackLanes w n v) = v % 2 ^ (w * n) := by
  induction n generalizing v with
  | zero => simp [unpackLanes, packLanes, Nat.mod_one]
  | succ n ih =>
    have hsplit : 2 ^ (w * (n + 1)) = 2 ^ w * 2 ^ (w * n) := by rw [← pow_add]; congr 1; ring
    simp only [unpackLanes, packLanes, ih, BitVec.toNat_ofNat, hsplit, Nat.mod_mul]

/-- The subkey array of a packed one. -/
theorem unpackSka_packSka (sk : SubkeyArray) : unpackSka (packSka sk) = sk := by
  have h := unpackLanes_packLanes 16 sk.toList
  rw [Vector.length_toList] at h
  apply Vector.toArray_inj.mp
  simp only [unpackSka, packSka, h]
  exact Array.toArray_toList

/-- The flat value of an unpacked subkey array. -/
theorem packSka_unpackSka (v : Nat) : packSka (unpackSka v) = v % 2 ^ (16 * 22) :=
  packLanes_unpackLanes 16 22 v

/-- What stands above `n` lanes is the quotient by their size. -/
theorem aboveLanes_eq_div (w n v : Nat) : aboveLanes w n v = v / 2 ^ (w * n) := by
  induction n generalizing v with
  | zero => simp [aboveLanes]
  | succ n ih => rw [aboveLanes, ih, Nat.div_div_eq_div_mul, ← pow_add]; congr 2; ring

/-- A message port has exactly MAX_LEN lanes. -/
@[simp] theorem lanesOf_length (maxLen : Nat) (msg : List Byte) : (lanesOf maxLen msg).length = maxLen := by
  simp [lanesOf]; omega

/-- Exactly MAX_LEN bytes are the lanes themselves. -/
theorem lanesOf_self {maxLen : Nat} {msg : List Byte} (h : msg.length = maxLen) : lanesOf maxLen msg = msg := by
  subst h; simp [lanesOf]

/-- LEN_W bits hold MAX_LEN. -/
theorem maxLen_lt_lenW (maxLen : Nat) : maxLen < 2 ^ lenW maxLen := Nat.lt_log2_self

theorem lowBits_lt (n v : Nat) : lowBits n v < 2 ^ n := Nat.mod_lt _ (Nat.two_pow_pos n)

theorem lowBits_self {n v : Nat} (h : v < 2 ^ n) : lowBits n v = v := Nat.mod_eq_of_lt h

end Sys2Proof.Machine
end

