-- ==== Sys2Proof/Laws/Decode.lean ====
section
/-! SUPPORT. What the decoder does with the operation identifier and with the size of the operands. -/

namespace Sys2Proof

/-- The operation of a number by its value modulo 4 (R51). -/
theorem opIdOfBits_cases (code : Nat) :
    (opIdOfBits (BitVec.ofNat 2 code) = .ksched ∧ code % 4 = 0) ∨
    (opIdOfBits (BitVec.ofNat 2 code) = .enc ∧ code % 4 = 1) ∨
    (opIdOfBits (BitVec.ofNat 2 code) = .dec ∧ code % 4 = 2) ∨
    (opIdOfBits (BitVec.ofNat 2 code) = .unpad ∧ code % 4 = 3) := by
  have h : BitVec.ofNat 2 code = BitVec.ofNat 2 (code % 4) := by apply BitVec.eq_of_toNat_eq; simp
  rw [h]
  have : code % 4 < 4 := Nat.mod_lt _ (by omega)
  interval_cases code % 4 <;> simp [opIdOfBits]

/-- The size check is a bound by the operation's operand bits (R52). -/
theorem operandsFit_iff (maxLen : Nat) (op : OpId) (bits : Nat) :
    operandsFit maxLen op bits = true ↔ bits < 2 ^ operandBits maxLen op := by
  cases op <;> simp only [operandsFit, operandBits, decide_eq_true_eq]
  case enc | dec =>
    rw [Machine.aboveLanes_eq_div, Nat.div_div_eq_div_mul, ← pow_add, Nat.div_eq_zero_iff_lt (Nat.two_pow_pos _)]
  case unpad =>
    constructor
    · intro h; rw [← h]; exact Machine.lowBits_lt _ _
    · exact Machine.lowBits_self

/-- What decoding answers, whatever the number is. -/
theorem decode_cases (maxLen code : Nat) :
    (code / 4 < 2 ^ operandBits maxLen (opIdOfBits (BitVec.ofNat 2 code)) ∧
      decode maxLen code = .ok (decodeOperands maxLen (opIdOfBits (BitVec.ofNat 2 code)) (code / 4))) ∨
    (¬ code / 4 < 2 ^ operandBits maxLen (opIdOfBits (BitVec.ofNat 2 code)) ∧
      decode maxLen code = .error .oversize) := by
  rw [← operandsFit_iff, decode]
  split <;> rename_i h
  · exact .inl ⟨h, rfl⟩
  · exact .inr ⟨h, rfl⟩

end Sys2Proof
end

