-- ==== Sys2Proof/Laws/KeySchedule.lean ====
section
/-! SUPPORT. The key schedule's loop: one more iteration, the lengths of its arrays, and the lanes of its result. -/

namespace Sys2Proof.Machine

/-- One more iteration. -/
theorem scheduleAfter_succ (key : BitVec 64) (n : Nat) :
    scheduleAfter key (n + 1) = scheduleIter (scheduleAfter key n) n := by
  simp only [scheduleAfter, List.range_succ, List.foldl_append, List.foldl_cons, List.foldl_nil]

/-- The lookback array has 3 seeds and one entry for each iteration. -/
theorem scheduleAfter_l_length (key : BitVec 64) (n : Nat) : (scheduleAfter key n).l.length = n + 3 := by
  induction n with
  | zero => rfl
  | succ n ih => rw [scheduleAfter_succ]; simp [scheduleIter, ih]

theorem toList_mk_toArray {α : Type} {n : Nat} (l : List α) (h : l.toArray.size = n) :
    (Vector.mk l.toArray h).toList = l := rfl

/-- The lanes of the key schedule are the array `sk` after the last iteration. -/
theorem keySchedule_toList (key : BitVec 64) : (keySchedule key).toList = (scheduleAfter key 21).sk :=
  toList_mk_toArray _ _

/-- One lane of the key schedule. -/
theorem keySchedule_getElem (key : BitVec 64) (i : Nat) (h : i < 22) :
    (scheduleAfter key 21).sk[i]? = some (keySchedule key)[i] := by
  rw [← keySchedule_toList, Vector.getElem?_toList]
  exact Vector.getElem?_eq_getElem h

end Sys2Proof.Machine
end

