-- ==== Sys2Proof/Laws/State.lean ====
section
/-! SUPPORT. What each update of the state leaves in each field, so that no later proof unfolds a record update. -/

namespace Sys2Proof.Machine

@[simp] theorem State.setKs_maxLen (v : UnitStatus (BitVec 64) SubkeyArray) (s : State) :
    (s.setKs v).maxLen = s.maxLen := rfl
@[simp] theorem State.setKs_ks (v : UnitStatus (BitVec 64) SubkeyArray) (s : State) :
    (s.setKs v).ks = v := rfl
@[simp] theorem State.setKs_enc (v : UnitStatus (BitVec 64) SubkeyArray) (s : State) :
    (s.setKs v).enc = s.enc := rfl
@[simp] theorem State.setKs_dec (v : UnitStatus (BitVec 64) SubkeyArray) (s : State) :
    (s.setKs v).dec = s.dec := rfl
@[simp] theorem State.setKs_up (v : UnitStatus (BitVec 64) SubkeyArray) (s : State) :
    (s.setKs v).up = s.up := rfl
@[simp] theorem State.setKs_faults (v : UnitStatus (BitVec 64) SubkeyArray) (s : State) :
    (s.setKs v).faults = s.faults := rfl
@[simp] theorem State.setKs_ports (v : UnitStatus (BitVec 64) SubkeyArray) (s : State) :
    (s.setKs v).ports = s.ports := rfl
@[simp] theorem State.setKs_agenda (v : UnitStatus (BitVec 64) SubkeyArray) (s : State) :
    (s.setKs v).agenda = s.agenda := rfl
@[simp] theorem State.setKs_received (v : UnitStatus (BitVec 64) SubkeyArray) (s : State) :
    (s.setKs v).received = s.received := rfl
@[simp] theorem State.setKs_now (v : UnitStatus (BitVec 64) SubkeyArray) (s : State) :
    (s.setKs v).now = s.now := rfl

@[simp] theorem State.setEnc_maxLen (v : UnitStatus CipherOps (BitVec 32)) (s : State) :
    (s.setEnc v).maxLen = s.maxLen := rfl
@[simp] theorem State.setEnc_ks (v : UnitStatus CipherOps (BitVec 32)) (s : State) :
    (s.setEnc v).ks = s.ks := rfl
@[simp] theorem State.setEnc_enc (v : UnitStatus CipherOps (BitVec 32)) (s : State) :
    (s.setEnc v).enc = v := rfl
@[simp] theorem State.setEnc_dec (v : UnitStatus CipherOps (BitVec 32)) (s : State) :
    (s.setEnc v).dec = s.dec := rfl
@[simp] theorem State.setEnc_up (v : UnitStatus CipherOps (BitVec 32)) (s : State) :
    (s.setEnc v).up = s.up := rfl
@[simp] theorem State.setEnc_faults (v : UnitStatus CipherOps (BitVec 32)) (s : State) :
    (s.setEnc v).faults = s.faults := rfl
@[simp] theorem State.setEnc_ports (v : UnitStatus CipherOps (BitVec 32)) (s : State) :
    (s.setEnc v).ports = s.ports := rfl
@[simp] theorem State.setEnc_agenda (v : UnitStatus CipherOps (BitVec 32)) (s : State) :
    (s.setEnc v).agenda = s.agenda := rfl
@[simp] theorem State.setEnc_received (v : UnitStatus CipherOps (BitVec 32)) (s : State) :
    (s.setEnc v).received = s.received := rfl
@[simp] theorem State.setEnc_now (v : UnitStatus CipherOps (BitVec 32)) (s : State) :
    (s.setEnc v).now = s.now := rfl

@[simp] theorem State.setDec_maxLen (v : UnitStatus CipherOps (BitVec 32)) (s : State) :
    (s.setDec v).maxLen = s.maxLen := rfl
@[simp] theorem State.setDec_ks (v : UnitStatus CipherOps (BitVec 32)) (s : State) :
    (s.setDec v).ks = s.ks := rfl
@[simp] theorem State.setDec_enc (v : UnitStatus CipherOps (BitVec 32)) (s : State) :
    (s.setDec v).enc = s.enc := rfl
@[simp] theorem State.setDec_dec (v : UnitStatus CipherOps (BitVec 32)) (s : State) :
    (s.setDec v).dec = v := rfl
@[simp] theorem State.setDec_up (v : UnitStatus CipherOps (BitVec 32)) (s : State) :
    (s.setDec v).up = s.up := rfl
@[simp] theorem State.setDec_faults (v : UnitStatus CipherOps (BitVec 32)) (s : State) :
    (s.setDec v).faults = s.faults := rfl
@[simp] theorem State.setDec_ports (v : UnitStatus CipherOps (BitVec 32)) (s : State) :
    (s.setDec v).ports = s.ports := rfl
@[simp] theorem State.setDec_agenda (v : UnitStatus CipherOps (BitVec 32)) (s : State) :
    (s.setDec v).agenda = s.agenda := rfl
@[simp] theorem State.setDec_received (v : UnitStatus CipherOps (BitVec 32)) (s : State) :
    (s.setDec v).received = s.received := rfl
@[simp] theorem State.setDec_now (v : UnitStatus CipherOps (BitVec 32)) (s : State) :
    (s.setDec v).now = s.now := rfl

@[simp] theorem State.setUp_maxLen (v : UnitStatus Message Message) (s : State) :
    (s.setUp v).maxLen = s.maxLen := rfl
@[simp] theorem State.setUp_ks (v : UnitStatus Message Message) (s : State) :
    (s.setUp v).ks = s.ks := rfl
@[simp] theorem State.setUp_enc (v : UnitStatus Message Message) (s : State) :
    (s.setUp v).enc = s.enc := rfl
@[simp] theorem State.setUp_dec (v : UnitStatus Message Message) (s : State) :
    (s.setUp v).dec = s.dec := rfl
@[simp] theorem State.setUp_up (v : UnitStatus Message Message) (s : State) :
    (s.setUp v).up = v := rfl
@[simp] theorem State.setUp_faults (v : UnitStatus Message Message) (s : State) :
    (s.setUp v).faults = s.faults := rfl
@[simp] theorem State.setUp_ports (v : UnitStatus Message Message) (s : State) :
    (s.setUp v).ports = s.ports := rfl
@[simp] theorem State.setUp_agenda (v : UnitStatus Message Message) (s : State) :
    (s.setUp v).agenda = s.agenda := rfl
@[simp] theorem State.setUp_received (v : UnitStatus Message Message) (s : State) :
    (s.setUp v).received = s.received := rfl
@[simp] theorem State.setUp_now (v : UnitStatus Message Message) (s : State) :
    (s.setUp v).now = s.now := rfl

@[simp] theorem drivePorts_maxLen (p : Ports) (s : State) :
    (drivePorts p s).maxLen = s.maxLen := rfl
@[simp] theorem drivePorts_ks (p : Ports) (s : State) :
    (drivePorts p s).ks = s.ks := rfl
@[simp] theorem drivePorts_enc (p : Ports) (s : State) :
    (drivePorts p s).enc = s.enc := rfl
@[simp] theorem drivePorts_dec (p : Ports) (s : State) :
    (drivePorts p s).dec = s.dec := rfl
@[simp] theorem drivePorts_up (p : Ports) (s : State) :
    (drivePorts p s).up = s.up := rfl
@[simp] theorem drivePorts_faults (p : Ports) (s : State) :
    (drivePorts p s).faults = s.faults := rfl
@[simp] theorem drivePorts_ports (p : Ports) (s : State) :
    (drivePorts p s).ports = p := rfl
@[simp] theorem drivePorts_agenda (p : Ports) (s : State) :
    (drivePorts p s).agenda = s.agenda := rfl
@[simp] theorem drivePorts_received (p : Ports) (s : State) :
    (drivePorts p s).received = s.received := rfl
@[simp] theorem drivePorts_now (p : Ports) (s : State) :
    (drivePorts p s).now = s.now := rfl

@[simp] theorem receive_maxLen (p : OutPort) (v : PortValue) (s : State) :
    (receive p v s).maxLen = s.maxLen := rfl
@[simp] theorem receive_ks (p : OutPort) (v : PortValue) (s : State) :
    (receive p v s).ks = s.ks := rfl
@[simp] theorem receive_enc (p : OutPort) (v : PortValue) (s : State) :
    (receive p v s).enc = s.enc := rfl
@[simp] theorem receive_dec (p : OutPort) (v : PortValue) (s : State) :
    (receive p v s).dec = s.dec := rfl
@[simp] theorem receive_up (p : OutPort) (v : PortValue) (s : State) :
    (receive p v s).up = s.up := rfl
@[simp] theorem receive_faults (p : OutPort) (v : PortValue) (s : State) :
    (receive p v s).faults = s.faults := rfl
@[simp] theorem receive_ports (p : OutPort) (v : PortValue) (s : State) :
    (receive p v s).ports = s.ports := rfl
@[simp] theorem receive_agenda (p : OutPort) (v : PortValue) (s : State) :
    (receive p v s).agenda = s.agenda := rfl
@[simp] theorem receive_received (p : OutPort) (v : PortValue) (s : State) :
    (receive p v s).received = s.received ++ [(p, v)] := rfl
@[simp] theorem receive_now (p : OutPort) (v : PortValue) (s : State) :
    (receive p v s).now = s.now := rfl

@[simp] theorem State.advance_maxLen (rest : List Event) (s : State) :
    (s.advance rest).maxLen = s.maxLen := rfl
@[simp] theorem State.advance_ks (rest : List Event) (s : State) :
    (s.advance rest).ks = s.ks := rfl
@[simp] theorem State.advance_enc (rest : List Event) (s : State) :
    (s.advance rest).enc = s.enc := rfl
@[simp] theorem State.advance_dec (rest : List Event) (s : State) :
    (s.advance rest).dec = s.dec := rfl
@[simp] theorem State.advance_up (rest : List Event) (s : State) :
    (s.advance rest).up = s.up := rfl
@[simp] theorem State.advance_faults (rest : List Event) (s : State) :
    (s.advance rest).faults = s.faults := rfl
@[simp] theorem State.advance_ports (rest : List Event) (s : State) :
    (s.advance rest).ports = s.ports := rfl
@[simp] theorem State.advance_agenda (rest : List Event) (s : State) :
    (s.advance rest).agenda = rest := rfl
@[simp] theorem State.advance_received (rest : List Event) (s : State) :
    (s.advance rest).received = s.received := rfl
@[simp] theorem State.advance_now (rest : List Event) (s : State) :
    (s.advance rest).now = s.now + 1 := rfl

@[simp] theorem raiseFault_maxLen (f : Fault) (s : State) :
    (raiseFault f s).maxLen = s.maxLen := rfl
@[simp] theorem raiseFault_ks (f : Fault) (s : State) :
    (raiseFault f s).ks = s.ks := rfl
@[simp] theorem raiseFault_enc (f : Fault) (s : State) :
    (raiseFault f s).enc = s.enc := rfl
@[simp] theorem raiseFault_dec (f : Fault) (s : State) :
    (raiseFault f s).dec = s.dec := rfl
@[simp] theorem raiseFault_up (f : Fault) (s : State) :
    (raiseFault f s).up = s.up := rfl
@[simp] theorem raiseFault_faults (f : Fault) (s : State) :
    (raiseFault f s).faults = s.faults ++ [{ fault := f, step := s.now }] := rfl
@[simp] theorem raiseFault_ports (f : Fault) (s : State) :
    (raiseFault f s).ports = s.ports := rfl
@[simp] theorem raiseFault_agenda (f : Fault) (s : State) :
    (raiseFault f s).agenda = s.agenda := rfl
@[simp] theorem raiseFault_received (f : Fault) (s : State) :
    (raiseFault f s).received = s.received := rfl
@[simp] theorem raiseFault_now (f : Fault) (s : State) :
    (raiseFault f s).now = s.now := rfl

@[simp] theorem State.launch_maxLen (n : Nat) : (State.launch n).maxLen = n := rfl
@[simp] theorem State.launch_ks (n : Nat) : (State.launch n).ks = .idle := rfl
@[simp] theorem State.launch_enc (n : Nat) : (State.launch n).enc = .idle := rfl
@[simp] theorem State.launch_dec (n : Nat) : (State.launch n).dec = .idle := rfl
@[simp] theorem State.launch_up (n : Nat) : (State.launch n).up = .idle := rfl
@[simp] theorem State.launch_faults (n : Nat) : (State.launch n).faults = [] := rfl
@[simp] theorem State.launch_ports (n : Nat) : (State.launch n).ports = Ports.launch := rfl
@[simp] theorem State.launch_agenda (n : Nat) : (State.launch n).agenda = [] := rfl
@[simp] theorem State.launch_received (n : Nat) : (State.launch n).received = [] := rfl
@[simp] theorem State.launch_now (n : Nat) : (State.launch n).now = 0 := rfl

@[simp] theorem Ports.quiet_rst (p : Ports) : p.quiet.rst = false := rfl
@[simp] theorem Ports.quiet_ksStart (p : Ports) : p.quiet.ksStart = false := rfl
@[simp] theorem Ports.quiet_encStart (p : Ports) : p.quiet.encStart = false := rfl
@[simp] theorem Ports.quiet_decStart (p : Ports) : p.quiet.decStart = false := rfl
@[simp] theorem Ports.quiet_upStart (p : Ports) : p.quiet.upStart = false := rfl
@[simp] theorem Ports.quiet_ksKey (p : Ports) : p.quiet.ksKey = p.ksKey := rfl
@[simp] theorem Ports.quiet_encPt (p : Ports) : p.quiet.encPt = p.encPt := rfl
@[simp] theorem Ports.quiet_encSk (p : Ports) : p.quiet.encSk = p.encSk := rfl
@[simp] theorem Ports.quiet_decCt (p : Ports) : p.quiet.decCt = p.decCt := rfl
@[simp] theorem Ports.quiet_decSk (p : Ports) : p.quiet.decSk = p.decSk := rfl
@[simp] theorem Ports.quiet_upMsg (p : Ports) : p.quiet.upMsg = p.upMsg := rfl
@[simp] theorem Ports.quiet_upLen (p : Ports) : p.quiet.upLen = p.upLen := rfl
@[simp] theorem Ports.quiet_quiet (p : Ports) : p.quiet.quiet = p.quiet := rfl

end Sys2Proof.Machine
end

