-- ==== Sys2Proof/Laws/Ops.lean ====
section
/-! SUPPORT. What each shared operation can do: one unit at an edge, a whole edge, a read. -/

namespace Sys2Proof.Machine

/-! ### One unit at one edge -/

section
variable {Ops Res : Type} (ops : Ops) (f : Ops → Res) (c : Bool)

/-- Without a start and without a completing edge nothing changes. -/
@[simp] theorem unitEdge_hold (st : UnitStatus Ops Res) : unitEdge false ops false f st = st := by
  cases st <;> rfl

/-- A unit that is not Busy accepts a start (R127). -/
theorem unitEdge_accept {st : UnitStatus Ops Res} (h : busyFlag st = false) :
    unitEdge true ops c f st = .busy ops := by
  cases st with
  | idle => rfl
  | busy o => simp [busyFlag] at h
  | done r => rfl

/-- A Busy unit is left as it was by a start (R114, R116). -/
@[simp] theorem unitEdge_startWhileBusy (o : Ops) :
    unitEdge true ops c f (.busy o : UnitStatus Ops Res) = .busy o := rfl

/-- A Busy unit completes at its completing edge (R128). -/
@[simp] theorem unitEdge_complete (o : Ops) :
    unitEdge false ops true f (.busy o : UnitStatus Ops Res) = .done (f o) := rfl

/-- A unit that is not Busy is left as it is by an edge without a start. -/
theorem unitEdge_notBusy {st : UnitStatus Ops Res} (h : busyFlag st = false) : unitEdge false ops c f st = st := by
  cases st with
  | idle => rfl
  | busy o => simp [busyFlag] at h
  | done r => rfl

/-- After an edge without a start at which it may complete, a unit is not Busy. -/
@[simp] theorem busyFlag_unitEdge_completes (st : UnitStatus Ops Res) :
    busyFlag (unitEdge false ops true f st) = false := by
  cases st <;> rfl

end

/-! ### Faults of a start -/

theorem startFault_eq (u : UnitName) (start busy : Bool) (s : State) :
    startFault u start busy s = s ∨ startFault u start busy s = raiseFault (.startWhileBusy u) s := by
  unfold startFault; split
  · exact .inr rfl
  · exact .inl rfl

@[simp] theorem startFault_noStart (u : UnitName) (busy : Bool) (s : State) : startFault u false busy s = s := rfl
@[simp] theorem startFault_notBusy (u : UnitName) (start : Bool) (s : State) : startFault u start false s = s := by
  cases start <;> rfl
@[simp] theorem startFault_busy (u : UnitName) (s : State) :
    startFault u true true s = raiseFault (.startWhileBusy u) s := rfl
@[simp] theorem startFault_maxLen (u : UnitName) (start busy : Bool) (s : State) :
    (startFault u start busy s).maxLen = s.maxLen := by
  rcases startFault_eq u start busy s with h | h <;> simp [h]
@[simp] theorem startFault_ks (u : UnitName) (start busy : Bool) (s : State) :
    (startFault u start busy s).ks = s.ks := by
  rcases startFault_eq u start busy s with h | h <;> simp [h]
@[simp] theorem startFault_enc (u : UnitName) (start busy : Bool) (s : State) :
    (startFault u start busy s).enc = s.enc := by
  rcases startFault_eq u start busy s with h | h <;> simp [h]
@[simp] theorem startFault_dec (u : UnitName) (start busy : Bool) (s : State) :
    (startFault u start busy s).dec = s.dec := by
  rcases startFault_eq u start busy s with h | h <;> simp [h]
@[simp] theorem startFault_up (u : UnitName) (start busy : Bool) (s : State) :
    (startFault u start busy s).up = s.up := by
  rcases startFault_eq u start busy s with h | h <;> simp [h]
@[simp] theorem startFault_ports (u : UnitName) (start busy : Bool) (s : State) :
    (startFault u start busy s).ports = s.ports := by
  rcases startFault_eq u start busy s with h | h <;> simp [h]
@[simp] theorem startFault_agenda (u : UnitName) (start busy : Bool) (s : State) :
    (startFault u start busy s).agenda = s.agenda := by
  rcases startFault_eq u start busy s with h | h <;> simp [h]
@[simp] theorem startFault_received (u : UnitName) (start busy : Bool) (s : State) :
    (startFault u start busy s).received = s.received := by
  rcases startFault_eq u start busy s with h | h <;> simp [h]
@[simp] theorem startFault_now (u : UnitName) (start busy : Bool) (s : State) :
    (startFault u start busy s).now = s.now := by
  rcases startFault_eq u start busy s with h | h <;> simp [h]

/-- The fault record after the check of a start: the old one, and StartWhileBusy where the unit is Busy. -/
theorem startFault_faults (u : UnitName) (start busy : Bool) (s : State) :
    (startFault u start busy s).faults =
      s.faults ++ if start && busy then [{ fault := .startWhileBusy u, step := s.now }] else [] := by
  unfold startFault; split <;> simp

/-! ### What one unit's edge leaves alone -/

@[simp] theorem edgeKs_maxLen (c : Bool) (s : State) : (edgeKs c s).maxLen = s.maxLen := by simp [edgeKs]
@[simp] theorem edgeKs_enc (c : Bool) (s : State) : (edgeKs c s).enc = s.enc := by simp [edgeKs]
@[simp] theorem edgeKs_dec (c : Bool) (s : State) : (edgeKs c s).dec = s.dec := by simp [edgeKs]
@[simp] theorem edgeKs_up (c : Bool) (s : State) : (edgeKs c s).up = s.up := by simp [edgeKs]
@[simp] theorem edgeKs_ports (c : Bool) (s : State) : (edgeKs c s).ports = s.ports := by simp [edgeKs]
@[simp] theorem edgeKs_agenda (c : Bool) (s : State) : (edgeKs c s).agenda = s.agenda := by simp [edgeKs]
@[simp] theorem edgeKs_received (c : Bool) (s : State) : (edgeKs c s).received = s.received := by simp [edgeKs]
@[simp] theorem edgeKs_now (c : Bool) (s : State) : (edgeKs c s).now = s.now := by simp [edgeKs]

@[simp] theorem edgeEnc_maxLen (c : Bool) (s : State) : (edgeEnc c s).maxLen = s.maxLen := by simp [edgeEnc]
@[simp] theorem edgeEnc_ks (c : Bool) (s : State) : (edgeEnc c s).ks = s.ks := by simp [edgeEnc]
@[simp] theorem edgeEnc_dec (c : Bool) (s : State) : (edgeEnc c s).dec = s.dec := by simp [edgeEnc]
@[simp] theorem edgeEnc_up (c : Bool) (s : State) : (edgeEnc c s).up = s.up := by simp [edgeEnc]
@[simp] theorem edgeEnc_ports (c : Bool) (s : State) : (edgeEnc c s).ports = s.ports := by simp [edgeEnc]
@[simp] theorem edgeEnc_agenda (c : Bool) (s : State) : (edgeEnc c s).agenda = s.agenda := by simp [edgeEnc]
@[simp] theorem edgeEnc_received (c : Bool) (s : State) : (edgeEnc c s).received = s.received := by simp [edgeEnc]
@[simp] theorem edgeEnc_now (c : Bool) (s : State) : (edgeEnc c s).now = s.now := by simp [edgeEnc]

@[simp] theorem edgeDec_maxLen (c : Bool) (s : State) : (edgeDec c s).maxLen = s.maxLen := by simp [edgeDec]
@[simp] theorem edgeDec_ks (c : Bool) (s : State) : (edgeDec c s).ks = s.ks := by simp [edgeDec]
@[simp] theorem edgeDec_enc (c : Bool) (s : State) : (edgeDec c s).enc = s.enc := by simp [edgeDec]
@[simp] theorem edgeDec_up (c : Bool) (s : State) : (edgeDec c s).up = s.up := by simp [edgeDec]
@[simp] theorem edgeDec_ports (c : Bool) (s : State) : (edgeDec c s).ports = s.ports := by simp [edgeDec]
@[simp] theorem edgeDec_agenda (c : Bool) (s : State) : (edgeDec c s).agenda = s.agenda := by simp [edgeDec]
@[simp] theorem edgeDec_received (c : Bool) (s : State) : (edgeDec c s).received = s.received := by simp [edgeDec]
@[simp] theorem edgeDec_now (c : Bool) (s : State) : (edgeDec c s).now = s.now := by simp [edgeDec]

@[simp] theorem edgeUp_maxLen (c : Bool) (s : State) : (edgeUp c s).maxLen = s.maxLen := by
  unfold edgeUp; split <;> simp
@[simp] theorem edgeUp_ks (c : Bool) (s : State) : (edgeUp c s).ks = s.ks := by
  unfold edgeUp; split <;> simp
@[simp] theorem edgeUp_enc (c : Bool) (s : State) : (edgeUp c s).enc = s.enc := by
  unfold edgeUp; split <;> simp
@[simp] theorem edgeUp_dec (c : Bool) (s : State) : (edgeUp c s).dec = s.dec := by
  unfold edgeUp; split <;> simp
@[simp] theorem edgeUp_ports (c : Bool) (s : State) : (edgeUp c s).ports = s.ports := by
  unfold edgeUp; split <;> simp
@[simp] theorem edgeUp_agenda (c : Bool) (s : State) : (edgeUp c s).agenda = s.agenda := by
  unfold edgeUp; split <;> simp
@[simp] theorem edgeUp_received (c : Bool) (s : State) : (edgeUp c s).received = s.received := by
  unfold edgeUp; split <;> simp
@[simp] theorem edgeUp_now (c : Bool) (s : State) : (edgeUp c s).now = s.now := by
  unfold edgeUp; split <;> simp

@[simp] theorem edgeKs_ks (c : Bool) (s : State) :
    (edgeKs c s).ks = unitEdge s.ports.ksStart s.ports.ksKey c keySchedule s.ks := rfl
@[simp] theorem edgeEnc_enc (c : Bool) (s : State) :
    (edgeEnc c s).enc =
      unitEdge s.ports.encStart { block := s.ports.encPt, sk := s.ports.encSk } c encResult s.enc := rfl
@[simp] theorem edgeDec_dec (c : Bool) (s : State) :
    (edgeDec c s).dec =
      unitEdge s.ports.decStart { block := s.ports.decCt, sk := s.ports.decSk } c decResult s.dec := rfl
theorem edgeUp_up (c : Bool) (s : State) :
    (edgeUp c s).up = if lengthFails s then .idle else
      unitEdge s.ports.upStart (sampledMessage s.maxLen s.ports) c unpadResult s.up := by
  unfold edgeUp; split <;> simp

/-- The faults one edge of one unit can raise: none or StartWhileBusy, and for UNPAD LengthOutOfRange (R113). -/
theorem edgeKs_faults (c : Bool) (s : State) :
    (edgeKs c s).faults = s.faults ++
      if s.ports.ksStart && busyFlag s.ks then [{ fault := .startWhileBusy .ks, step := s.now }] else [] := by
  simp [edgeKs, startFault_faults]
theorem edgeEnc_faults (c : Bool) (s : State) :
    (edgeEnc c s).faults = s.faults ++
      if s.ports.encStart && busyFlag s.enc then [{ fault := .startWhileBusy .enc, step := s.now }] else [] := by
  simp [edgeEnc, startFault_faults]
theorem edgeDec_faults (c : Bool) (s : State) :
    (edgeDec c s).faults = s.faults ++
      if s.ports.decStart && busyFlag s.dec then [{ fault := .startWhileBusy .dec, step := s.now }] else [] := by
  simp [edgeDec, startFault_faults]
theorem edgeUp_faults (c : Bool) (s : State) :
    (edgeUp c s).faults = s.faults ++
      if lengthFails s then
        [{ fault := .lengthOutOfRange (sampledMessage s.maxLen s.ports).len, step := s.now }]
      else if s.ports.upStart && busyFlag s.up then [{ fault := .startWhileBusy .up, step := s.now }] else [] := by
  unfold edgeUp; split <;> simp [startFault_faults]

/-! ### A whole edge -/

theorem clockEdge_of_rst (c : Completes) {s : State} (h : s.ports.rst = true) : clockEdge c s = resetUnits s := by
  simp [clockEdge, h]

theorem clockEdge_of_noRst (c : Completes) {s : State} (h : s.ports.rst = false) :
    clockEdge c s = edgeUp c.up (edgeDec c.dec (edgeEnc c.enc (edgeKs c.ks s))) := by
  simp [clockEdge, h]

@[simp] theorem clockEdge_maxLen (c : Completes) (s : State) : (clockEdge c s).maxLen = s.maxLen := by
  unfold clockEdge; split <;> simp [resetUnits]
@[simp] theorem clockEdge_ports (c : Completes) (s : State) : (clockEdge c s).ports = s.ports := by
  unfold clockEdge; split <;> simp [resetUnits]
@[simp] theorem clockEdge_agenda (c : Completes) (s : State) : (clockEdge c s).agenda = s.agenda := by
  unfold clockEdge; split <;> simp [resetUnits]
@[simp] theorem clockEdge_received (c : Completes) (s : State) : (clockEdge c s).received = s.received := by
  unfold clockEdge; split <;> simp [resetUnits]
@[simp] theorem clockEdge_now (c : Completes) (s : State) : (clockEdge c s).now = s.now := by
  unfold clockEdge; split <;> simp [resetUnits]

/-- KS after an edge (R116). -/
theorem clockEdge_ks (c : Completes) (s : State) :
    (clockEdge c s).ks = if s.ports.rst then .idle else
      unitEdge s.ports.ksStart s.ports.ksKey c.ks keySchedule s.ks := by
  unfold clockEdge; split <;> simp [resetUnits]

/-- ENC after an edge (R116). -/
theorem clockEdge_enc (c : Completes) (s : State) :
    (clockEdge c s).enc = if s.ports.rst then .idle else
      unitEdge s.ports.encStart { block := s.ports.encPt, sk := s.ports.encSk } c.enc encResult s.enc := by
  unfold clockEdge; split <;> simp [resetUnits]

/-- DEC after an edge (R116). -/
theorem clockEdge_dec (c : Completes) (s : State) :
    (clockEdge c s).dec = if s.ports.rst then .idle else
      unitEdge s.ports.decStart { block := s.ports.decCt, sk := s.ports.decSk } c.dec decResult s.dec := by
  unfold clockEdge; split <;> simp [resetUnits]

/-- UNPAD after an edge (R100, R116). -/
theorem clockEdge_up (c : Completes) (s : State) :
    (clockEdge c s).up = if s.ports.rst || lengthFails s then .idle else
      unitEdge s.ports.upStart (sampledMessage s.maxLen s.ports) c.up unpadResult s.up := by
  unfold clockEdge; split <;> simp_all [resetUnits, edgeUp_up, lengthFails]

/-- The fault record after an edge without reset: the old one, then the faults of KS, ENC, DEC and UNPAD (R116). -/
theorem clockEdge_faults (c : Completes) {s : State} (h : s.ports.rst = false) :
    (clockEdge c s).faults = s.faults ++
      ((if s.ports.ksStart && busyFlag s.ks then [{ fault := .startWhileBusy .ks, step := s.now }] else []) ++
      ((if s.ports.encStart && busyFlag s.enc then [{ fault := .startWhileBusy .enc, step := s.now }] else []) ++
      ((if s.ports.decStart && busyFlag s.dec then [{ fault := .startWhileBusy .dec, step := s.now }] else []) ++
      (if lengthFails s then [{ fault := .lengthOutOfRange (sampledMessage s.maxLen s.ports).len, step := s.now }]
        else if s.ports.upStart && busyFlag s.up then [{ fault := .startWhileBusy .up, step := s.now }]
        else [])))) := by
  have hl : lengthFails (edgeDec c.dec (edgeEnc c.enc (edgeKs c.ks s))) = lengthFails s := by simp [lengthFails]
  rw [clockEdge_of_noRst c h, edgeUp_faults, hl]
  simp [edgeDec_faults, edgeEnc_faults, edgeKs_faults]

/-- Faults are only appended by an edge (R31), and a reset raises none (R126). -/
theorem clockEdge_faults_grow (c : Completes) (s : State) : ∃ fs, (clockEdge c s).faults = s.faults ++ fs := by
  unfold clockEdge; split
  · exact ⟨[], by simp [resetUnits]⟩
  · simp only [edgeUp_faults, edgeDec_faults, edgeEnc_faults, edgeKs_faults, List.append_assoc]
    exact ⟨_, rfl⟩

/-! ### The free schedule -/

/-- When `left` edges are left until unit `u` is let complete, it is at the `left`-th next step. -/
theorem freeCompletes_after (u : Nat) : ∀ (left n k : Nat), waitAt u n = (k, left) → freeCompletes u (n + left) = true := by
  intro left
  induction left with
  | zero => intro n k h; simp [freeCompletes, h]
  | succ left ih =>
    intro n k h
    rw [← Nat.add_assoc, Nat.add_right_comm]
    exact ih (n + 1) k (by simp [waitAt, h])

/-- The free schedule is weakly fair: it lets every unit complete again after every step (R131). -/
theorem freeCompletes_again (u n : Nat) : ∃ m, n ≤ m ∧ freeCompletes u m = true :=
  ⟨_, Nat.le_add_right n _, freeCompletes_after u _ n (waitAt u n).1 rfl⟩

/-! ### Reads -/

/-- A read gives the host the port's value, or is ReadNoValue (R131). -/
theorem hostRead_cases (p : OutPort) (s : State) :
    (∃ v, portValue p s = some v ∧ hostRead p s = receive p v s) ∨
      (portValue p s = none ∧ hostRead p s = raiseFault (.readNoValue (portUnit p) p) s) := by
  unfold hostRead
  cases portValue p s with
  | some v => exact .inl ⟨v, rfl, rfl⟩
  | none => exact .inr ⟨rfl, rfl⟩

/-- Copying a result port leaves the agenda. -/
@[simp] theorem copyPort_agenda (s : State) (p : OutPort) : (copyPort s p).agenda = s.agenda := by
  unfold copyPort; split <;> simp

end Sys2Proof.Machine
end

