-- ==== Sys2Proof/Laws/PerInstr.lean ====
section
/-! SUPPORT. What holds of every operation as syntax: the operation identifier of its transaction (R51, R52). -/

namespace Sys2Proof.Laws

/-- The two low bits of an operation's transaction are its identifier, and the decoder tells the operation from them,
whatever the operand bits are (R51, R52). -/
def OpField.Statement (i : Instr) : Prop :=
  ∀ maxLen, opIdOfBits (BitVec.ofNat 2 (encode maxLen i)) = opIdOf i ∧ encode maxLen i / 4 = encodeOperands maxLen i

theorem opIdOfBits_encode (op : OpId) (n : Nat) :
    opIdOfBits (BitVec.ofNat 2 ((bitsOfOpId op).toNat + 4 * n)) = op ∧ ((bitsOfOpId op).toNat + 4 * n) / 4 = n := by
  have hlow : BitVec.ofNat 2 ((bitsOfOpId op).toNat + 4 * n) = bitsOfOpId op := by
    apply BitVec.eq_of_toNat_eq
    simp only [BitVec.toNat_ofNat]
    have := (bitsOfOpId op).isLt
    omega
  refine ⟨?_, ?_⟩
  · rw [hlow]; cases op <;> decide
  · have := (bitsOfOpId op).isLt
    omega

theorem OpField.ksched (key : BitVec 64) : OpField.Statement (.ksched key) := fun _ => opIdOfBits_encode .ksched _
theorem OpField.enc (pt : BitVec 32) (sk : SubkeyArray) : OpField.Statement (.enc pt sk) :=
  fun _ => opIdOfBits_encode .enc _
theorem OpField.dec (ct : BitVec 32) (sk : SubkeyArray) : OpField.Statement (.dec ct sk) :=
  fun _ => opIdOfBits_encode .dec _
theorem OpField.unpad (msg : List Byte) (len : Nat) : OpField.Statement (.unpad msg len) :=
  fun _ => opIdOfBits_encode .unpad _

end Sys2Proof.Laws
end

