-- ==== Sys2Proof/Laws/Statements.lean ====
section
/-! SUPPORT. What a statement of each unit does, from any state: the lemma to cite instead of unfolding runStatement. -/

namespace Sys2Proof.Machine

/-! ### Edges at quiet ports -/

theorem lengthFails_quiet {s : State} (h : s.ports.upStart = false) : lengthFails s = false := by
  simp [lengthFails, h]

/-- An edge with no start, no reset and nobody completing changes nothing. -/
theorem clockEdge_nobody_quiet {s : State} (h : s.ports.quiet = s.ports) : clockEdge .nobody s = s := by
  have hp : s.ports = s.ports.quiet := h.symm
  have hl : lengthFails s = false := lengthFails_quiet (by rw [hp]; rfl)
  ext1 <;> (try rw [clockEdge_faults _ (by rw [hp]; rfl)]) <;>
    simp [clockEdge_ks, clockEdge_enc, clockEdge_dec, clockEdge_up, hl, Completes.nobody] <;> rw [hp] <;> simp

section
variable {s : State} (h : s.ports.quiet = s.ports)
include h

/-- At quiet ports only the unit whose completing edge it is changes: KS. -/
theorem clockEdge_only_ks : clockEdge (.only .ks) s = s.setKs (unitEdge false s.ports.ksKey true keySchedule s.ks) := by
  have hp : s.ports = s.ports.quiet := h.symm
  have hl : lengthFails s = false := lengthFails_quiet (by rw [hp]; rfl)
  ext1 <;> (try rw [clockEdge_faults _ (by rw [hp]; rfl)]) <;>
    simp [clockEdge_ks, clockEdge_enc, clockEdge_dec, clockEdge_up, hl, Completes.only] <;> rw [hp] <;> simp

/-- ENC. -/
theorem clockEdge_only_enc : clockEdge (.only .enc) s =
    s.setEnc (unitEdge false { block := s.ports.encPt, sk := s.ports.encSk } true encResult s.enc) := by
  have hp : s.ports = s.ports.quiet := h.symm
  have hl : lengthFails s = false := lengthFails_quiet (by rw [hp]; rfl)
  ext1 <;> (try rw [clockEdge_faults _ (by rw [hp]; rfl)]) <;>
    simp [clockEdge_ks, clockEdge_enc, clockEdge_dec, clockEdge_up, hl, Completes.only] <;> rw [hp] <;> simp

/-- DEC. -/
theorem clockEdge_only_dec : clockEdge (.only .dec) s =
    s.setDec (unitEdge false { block := s.ports.decCt, sk := s.ports.decSk } true decResult s.dec) := by
  have hp : s.ports = s.ports.quiet := h.symm
  have hl : lengthFails s = false := lengthFails_quiet (by rw [hp]; rfl)
  ext1 <;> (try rw [clockEdge_faults _ (by rw [hp]; rfl)]) <;>
    simp [clockEdge_ks, clockEdge_enc, clockEdge_dec, clockEdge_up, hl, Completes.only] <;> rw [hp] <;> simp

/-- UNPAD. -/
theorem clockEdge_only_up : clockEdge (.only .up) s =
    s.setUp (unitEdge false (sampledMessage s.maxLen s.ports) true unpadResult s.up) := by
  have hp : s.ports = s.ports.quiet := h.symm
  have hl : lengthFails s = false := lengthFails_quiet (by rw [hp]; rfl)
  ext1 <;> (try rw [clockEdge_faults _ (by rw [hp]; rfl)]) <;>
    simp [clockEdge_ks, clockEdge_enc, clockEdge_dec, clockEdge_up, hl, Completes.only] <;> rw [hp] <;> simp

end

/-! ### The accepting edge of a statement -/

/-- KS accepts a request put on quiet ports. -/
theorem clockEdge_request_ks (key : BitVec 64) (p : Ports) {s : State} (h : busyFlag s.ks = false) :
    clockEdge .nobody (drivePorts (requestKs key p.quiet) s) =
      (drivePorts (requestKs key p.quiet) s).setKs (.busy key) := by
  ext1 <;> (try rw [clockEdge_faults _ rfl]) <;>
    simp [clockEdge_ks, clockEdge_enc, clockEdge_dec, clockEdge_up, lengthFails, Completes.nobody, requestKs, h,
      unitEdge_accept]

/-- ENC accepts a request put on quiet ports. -/
theorem clockEdge_request_enc (pt : BitVec 32) (sk : SubkeyArray) (p : Ports) {s : State} (h : busyFlag s.enc = false) :
    clockEdge .nobody (drivePorts (requestEnc pt sk p.quiet) s) =
      (drivePorts (requestEnc pt sk p.quiet) s).setEnc (.busy { block := pt, sk := sk }) := by
  ext1 <;> (try rw [clockEdge_faults _ rfl]) <;>
    simp [clockEdge_ks, clockEdge_enc, clockEdge_dec, clockEdge_up, lengthFails, Completes.nobody, requestEnc, h,
      unitEdge_accept]

/-- DEC accepts a request put on quiet ports. -/
theorem clockEdge_request_dec (ct : BitVec 32) (sk : SubkeyArray) (p : Ports) {s : State} (h : busyFlag s.dec = false) :
    clockEdge .nobody (drivePorts (requestDec ct sk p.quiet) s) =
      (drivePorts (requestDec ct sk p.quiet) s).setDec (.busy { block := ct, sk := sk }) := by
  ext1 <;> (try rw [clockEdge_faults _ rfl]) <;>
    simp [clockEdge_ks, clockEdge_enc, clockEdge_dec, clockEdge_up, lengthFails, Completes.nobody, requestDec, h,
      unitEdge_accept]

/-- The message UNPAD's ports carry when driven with `msg` and `len`. -/
def portMessage (maxLen : Nat) (msg : List Byte) (len : Nat) : Message :=
  { bytes := lanesOf maxLen msg, len := lowBits (lenW maxLen) len }

/-- For a well-formed message operand that is the operand itself. -/
theorem portMessage_self {maxLen len : Nat} {msg : List Byte} (hm : msg.length = maxLen) (hl : len < 2 ^ lenW maxLen) :
    portMessage maxLen msg len = { bytes := msg, len := len } := by
  simp [portMessage, lanesOf_self hm, lowBits_self hl]

/-- UNPAD accepts a request whose length is in range. -/
theorem clockEdge_request_up_accept (msg : List Byte) (len : Nat) (p : Ports) {s : State} (h : busyFlag s.up = false)
    (hl : ¬ s.maxLen < (portMessage s.maxLen msg len).len) :
    clockEdge .nobody (drivePorts (requestUp msg len p.quiet) s) =
      (drivePorts (requestUp msg len p.quiet) s).setUp (.busy (portMessage s.maxLen msg len)) := by
  have hf : lengthFails (drivePorts (requestUp msg len p.quiet) s) = false := by
    simp only [lengthFails, Bool.and_eq_false_iff]; exact .inr (decide_eq_false hl)
  simp only [requestUp, Ports.quiet] at hf
  ext1 <;> (try rw [clockEdge_faults _ rfl]) <;>
    simp [clockEdge_ks, clockEdge_enc, clockEdge_dec, clockEdge_up, hf, Completes.nobody, requestUp, Ports.quiet, h,
      sampledMessage, portMessage, unitEdge_accept]

/-- UNPAD turns a request away whose length is out of range: LengthOutOfRange, and Idle. -/
theorem clockEdge_request_up_refuse (msg : List Byte) (len : Nat) (p : Ports) {s : State} (h : busyFlag s.up = false)
    (hl : s.maxLen < (portMessage s.maxLen msg len).len) :
    clockEdge .nobody (drivePorts (requestUp msg len p.quiet) s) =
      (raiseFault (.lengthOutOfRange (portMessage s.maxLen msg len).len)
        (drivePorts (requestUp msg len p.quiet) s)).setUp .idle := by
  have hf : lengthFails (drivePorts (requestUp msg len p.quiet) s) = true := by
    simp only [lengthFails, Bool.and_eq_true]; exact ⟨⟨rfl, by simp [h]⟩, decide_eq_true hl⟩
  simp only [requestUp, Ports.quiet] at hf
  ext1 <;> (try rw [clockEdge_faults _ rfl]) <;>
    simp [clockEdge_ks, clockEdge_enc, clockEdge_dec, clockEdge_up, hf, Completes.nobody, requestUp, Ports.quiet,
      sampledMessage, portMessage]

/-! ### Whole statements -/

/-- A KSCHED statement, from any state. -/
theorem runStatement_ks (key : BitVec 64) (s : State) :
    runStatement .ks (requestKs key) s =
      { s with ks := .done (keySchedule key), ports := { s.ports.quiet with ksKey := key },
               received := s.received ++ [(.ksSk, .subkeys (keySchedule key))] } := by
  simp only [runStatement]
  rw [clockEdge_only_ks (s := drivePorts s.ports.quiet s) rfl]
  simp only [State.setKs_ports, drivePorts_ports]
  rw [clockEdge_request_ks _ _ (by simp), clockEdge_only_ks rfl]
  rfl

/-- An ENC statement, from any state. -/
theorem runStatement_enc (pt : BitVec 32) (sk : SubkeyArray) (s : State) :
    runStatement .enc (requestEnc pt sk) s =
      { s with enc := .done (encryptBlock pt sk), ports := { s.ports.quiet with encPt := pt, encSk := sk },
               received := s.received ++ [(.encCt, .block (encryptBlock pt sk))] } := by
  simp only [runStatement]
  rw [clockEdge_only_enc (s := drivePorts s.ports.quiet s) rfl]
  simp only [State.setEnc_ports, drivePorts_ports]
  rw [clockEdge_request_enc _ _ _ (by simp), clockEdge_only_enc rfl]
  rfl

/-- A DEC statement, from any state. -/
theorem runStatement_dec (ct : BitVec 32) (sk : SubkeyArray) (s : State) :
    runStatement .dec (requestDec ct sk) s =
      { s with dec := .done (decryptBlock ct sk), ports := { s.ports.quiet with decCt := ct, decSk := sk },
               received := s.received ++ [(.decPt, .block (decryptBlock ct sk))] } := by
  simp only [runStatement]
  rw [clockEdge_only_dec (s := drivePorts s.ports.quiet s) rfl]
  simp only [State.setDec_ports, drivePorts_ports]
  rw [clockEdge_request_dec _ _ _ (by simp), clockEdge_only_dec rfl]
  rfl

/-- An UNPAD statement, from any state. -/
theorem runStatement_up (msg : List Byte) (len : Nat) (s : State) :
    runStatement .up (requestUp msg len) s =
      if s.maxLen < (portMessage s.maxLen msg len).len then
        { s with up := .idle, ports := { s.ports.quiet with upMsg := msg, upLen := len },
                 faults := s.faults ++
                   [{ fault := .lengthOutOfRange (portMessage s.maxLen msg len).len, step := s.now }] }
      else
        { s with up := .done (unpadResult (portMessage s.maxLen msg len)),
                 ports := { s.ports.quiet with upMsg := msg, upLen := len },
                 received := s.received ++
                   [(.upMsgOut, .bytes (lanesOf s.maxLen msg)),
                    (.upLenOut, .length (unpadResult (portMessage s.maxLen msg len)).len)] } := by
  simp only [runStatement]
  rw [clockEdge_only_up (s := drivePorts s.ports.quiet s) rfl]
  simp only [State.setUp_ports, drivePorts_ports]
  split
  · rename_i hl
    rw [clockEdge_request_up_refuse _ _ _ (by simp) (by simpa using hl), clockEdge_only_up rfl]
    rfl
  · rename_i hl
    rw [clockEdge_request_up_accept _ _ _ (by simp) (by simpa using hl), clockEdge_only_up rfl]
    simp [resultPorts, copyPort, portValue, resultOf, receive, drivePorts, State.setUp, requestUp, Ports.quiet,
      unpadResult, portMessage]

end Sys2Proof.Machine
end

