-- ==== Sys2Proof/Laws/Step.lean ====
section
/-! SUPPORT. Everything one step can do, said once: the lemma to cite instead of unfolding step. -/

namespace Sys2Proof.Machine

/-- Every instruction has a next state in every state. -/
theorem exec_next (i : Instr) (s : State) : ∃ t, exec i s = .next t := by
  cases i <;> exact ⟨_, rfl⟩

/-- An instruction leaves the agenda. -/
theorem exec_agenda {i : Instr} {s t : State} (h : exec i s = .next t) : t.agenda = s.agenda := by
  cases i <;> cases h <;> simp [runStatement, resultPorts]

/-- An edge with the free schedule is what a step does when the host has stopped. -/
theorem step_of_empty {s : State} (h : s.agenda = []) :
    step s = .next (clockEdge (freeSchedule (s.now + 1)) (s.advance [])) := by
  simp only [step, h, idleEdge, State.advance_now]

/-- A step whose next event is `e` is that event, on the state with it taken off. -/
theorem step_of_event {s : State} {e : Event} {rest : List Event} (h : s.agenda = e :: rest) :
    step s = runEvent e (s.advance rest) := by
  simp only [step, h]

/-- If a step answers a next state, it began from the state with the next event taken off, and was an edge of the clock, a
read, a drive of the ports, or the instruction that the event's number decodes to. -/
theorem step_cases {s t : State} (h : step s = .next t) :
    (∃ c, t = clockEdge c (s.advance s.agenda.tail)) ∨ (∃ p, t = hostRead p (s.advance s.agenda.tail)) ∨
      (∃ p, t = drivePorts p (s.advance s.agenda.tail)) ∨
      ∃ code i, decode s.maxLen code = .ok i ∧ exec i (s.advance s.agenda.tail) = .next t := by
  cases ha : s.agenda with
  | nil =>
    rw [step_of_empty ha, Host.Outcome.next.injEq] at h
    exact .inl ⟨_, h.symm⟩
  | cons e rest =>
    rw [step_of_event ha] at h
    rw [List.tail_cons]
    cases e with
    | transaction code =>
      simp only [runEvent, runTransaction, State.advance_maxLen] at h
      split at h
      · rename_i i hd
        exact .inr (.inr (.inr ⟨code, i, hd, h⟩))
      · cases h
    | drive p => exact .inr (.inr (.inl ⟨p, (Host.Outcome.next.inj h).symm⟩))
    | edge c => exact .inl ⟨c, (Host.Outcome.next.inj h).symm⟩
    | read p => exact .inr (.inl ⟨p, (Host.Outcome.next.inj h).symm⟩)

/-- A step takes one event off the agenda and puts none on it. -/
theorem step_agenda {s t : State} (h : step s = .next t) : t.agenda = s.agenda.tail := by
  rcases step_cases h with ⟨c, rfl⟩ | ⟨p, rfl⟩ | ⟨p, rfl⟩ | ⟨_, i, _, hx⟩
  · simp
  · rcases hostRead_cases p (s.advance s.agenda.tail) with ⟨v, _, e⟩ | ⟨_, e⟩ <;> simp [e]
  · simp
  · rw [exec_agenda hx, State.advance_agenda]

end Sys2Proof.Machine
end

