-- ==== Sys2Proof/Tests/Slice0.lean ====
section
/-! SUPPORT. Tests, their expected values taken from spec/95_test_vectors.md (V1 to V10, P1 to P3) or worked out by hand
from the formats, and for every obligation with hypotheses a witness that meets them. -/

namespace Sys2Proof.Machine.Tests

/-! ### Helpers -/

/-- The next state of an outcome. -/
def nextOf (o : Host.Outcome State Fault Refusal) : Option State :=
  match o with
  | .next t => some t
  | .fault _ => none
  | .refused _ => none

/-- What a decoder answers, the reason of a rejection left out. -/
def okOf (r : Except DecodeError Instr) : Option Instr :=
  match r with
  | .ok i => some i
  | .error _ => none

/-- The key of V1. -/
def key1 : BitVec 64 := 0x1918111009080100

/-- The subkey array of V2. -/
def sk1 : SubkeyArray :=
  #v[0x0100, 0x1512, 0x617D, 0x1458, 0x6919, 0x77E2, 0x0C89, 0xCCDB, 0xEFEA, 0x4E33, 0x76F4,
     0x5976, 0xEE8B, 0xDB04, 0x4617, 0xF37E, 0x87B4, 0x8ECA, 0xED9B, 0x3A52, 0x8229, 0xED64]

/-- A block of capacity 4 at launch. -/
def idle4 : State := State.launch 4

/-- A block of capacity 4 with every unit Busy. -/
def busy4 : State :=
  { State.launch 4 with
    ks := .busy key1
    enc := .busy { block := 0x6574694C, sk := sk1 }
    dec := .busy { block := 0xA86842F2, sk := sk1 }
    up := .busy { bytes := [0x41, 0x42, 0x80, 0x00], len := 4 } }

/-- A block of capacity 4 with every unit Done. -/
def done4 : State :=
  { State.launch 4 with
    ks := .done sk1
    enc := .done 0xA86842F2
    dec := .done 0x6574694C
    up := .done { bytes := [0x41, 0x42, 0x80, 0x00], len := 2 } }

/-- Ports with every start asserted, V1's operands and the length `len`. -/
def startAll (len : Nat) : Ports :=
  { Ports.launch with
    ksStart := true
    ksKey := key1
    encStart := true
    encPt := 0x6574694C
    encSk := sk1
    decStart := true
    decCt := 0xA86842F2
    decSk := sk1
    upStart := true
    upMsg := [0x41, 0x42, 0x80, 0x00]
    upLen := len }

/-- Every busy unit completes. -/
def allComplete : Completes := { ks := true, enc := true, dec := true, up := true }

/-! ### WellFormed: one ill-formed term for each check, and the bounds -/

/-- Three lanes at capacity 4 (R57). -/
theorem test_wellFormed_refuses_lanes : (Instr.unpad [0x41, 0x42, 0x43] 3).wellFormed 4 = false := by decide
/-- The length 8 does not fit the 3 bits of LEN at capacity 4 (R9, R58). -/
theorem test_wellFormed_refuses_length : (Instr.unpad [0, 0, 0, 0] 8).wellFormed 4 = false := by decide
/-- A length out of range that fits its port is an operand (R58). -/
theorem test_wellFormed_accepts_outOfRange : (Instr.unpad [0, 0, 0, 0] 7).wellFormed 4 = true := by decide

/-! ### Decoding: words written out from 30_encoding.md, rules R51 and R54 to R58 -/

/-- `op=00 ks_key=0x1918111009080100` (P1). -/
theorem test_decode_ksched :
    okOf (decode 4 0b0001100100011000000100010001000000001001000010000000000100000000_00) =
      some (.ksched 0x1918111009080100) := by decide
/-- `op=01`, block `0x6574694C`, `sk[0] = 0x0100` in the lane next to it, `sk[21] = 0xED64` in the highest. -/
theorem test_decode_enc :
    okOf (decode 4 (((0xED64 * 2 ^ 168 * 2 ^ 168 + 0x0100) * 2 ^ 32 + 0x6574694C) * 4 + 0b01)) =
      some (.enc 0x6574694C (((Vector.replicate 22 0).set 0 0x0100).set 21 0xED64)) := by decide
/-- `op=10`, block `0xA86842F2`, `sk[1] = 0x1512`. -/
theorem test_decode_dec :
    okOf (decode 4 (0x1512 * 2 ^ (2 + 32 + 16) + 0xA86842F2 * 4 + 0b10)) =
      some (.dec 0xA86842F2 ((Vector.replicate 22 0).set 1 0x1512)) := by decide
/-- `op=11`, `up_len = 4` in three bits, then the bytes 41 42 80 00, the first lowest (R57, R103's example). -/
theorem test_decode_unpad :
    okOf (decode 4 0b00000000_10000000_01000010_01000001_100_11) = some (.unpad [0x41, 0x42, 0x80, 0x00] 4) := by decide
/-- One bit above a key is no transaction (R52). -/
theorem test_decode_oversize : okOf (decode 4 (2 ^ 66)) = none := by decide
/-- One bit above a message is no transaction (R52). -/
theorem test_decode_oversize_unpad : okOf (decode 4 (2 ^ 37 + 3)) = none := by decide

/-- Row 0 of the opcode table. -/
theorem test_row_ksched : decodeTableWord 8 0 = some (.ksched 0) := by decide
/-- Row 1 of the opcode table. -/
theorem test_row_enc : decodeTableWord 8 1 = some (.enc 0 (Vector.replicate 22 0)) := by decide
/-- Row 2 of the opcode table. -/
theorem test_row_dec : decodeTableWord 8 2 = some (.dec 0 (Vector.replicate 22 0)) := by decide
/-- Row 3 of the opcode table: UNPAD of the empty message, whatever MAX_LEN is. -/
theorem test_row_unpad : ((decodeTableWord 8 3).map opIdOf) = some .unpad := by decide

/-! ### The pure functions -/

/-- V5: rotations with and without wrapped bits. -/
theorem test_rotations :
    rotl16 0x8001 2 = 0x0006 ∧ rotl16 0x694C 2 = 0xA531 ∧ rotl16 0x8A66 7 = 0x3345 ∧
      rotr16 0x007F 7 = 0xFE00 ∧ rotr16 0x6574 7 = 0xE8CA ∧ rotr16 0xEA9A 2 = 0xBAA6 := by decide
/-- V5: carry and borrow are discarded. -/
theorem test_modular :
    add16 0xE8CA 0x694C = 0x5216 ∧ add16 0xFFFF 0x0001 = 0x0000 ∧
      sub16 0x0005 0x0007 = 0xFFFE ∧ sub16 0x450C 0xBAA6 = 0x8A66 := by decide
/-- V3, round 0. -/
theorem test_encRound : encRound { p1 := 0x6574, p2 := 0x694C } 0x0100 = { p1 := 0x5316, p2 := 0xF627 } := by decide
/-- V4, round 21. -/
theorem test_decRound : decRound { p1 := 0xA868, p2 := 0x42F2 } 0xED64 = { p1 := 0x3345, p2 := 0xBAA6 } := by decide
/-- R66, P2: padding of a message of length 5, and P3: of length 4 and of the empty message. -/
theorem test_pad :
    padMessage [0x53, 0x70, 0x65, 0x63, 0x6B] = [0x53, 0x70, 0x65, 0x63, 0x6B, 0x80, 0x00, 0x00] ∧
      padMessage [0x41, 0x42, 0x43, 0x00] = [0x41, 0x42, 0x43, 0x00, 0x80, 0x00, 0x00, 0x00] ∧
      padMessage [] = [0x80, 0x00, 0x00, 0x00] := by decide
/-- V9: the corners of Unpad. -/
theorem test_unpadLen :
    unpadLen [] 0 = 0 ∧ unpadLen [0x80, 0x00, 0x00, 0x00] 4 = 0 ∧ unpadLen [0x00, 0x00, 0x00, 0x00] 4 = 0 ∧
      unpadLen [0x80, 0x80] 2 = 1 ∧ unpadLen [0x00, 0x80, 0x00, 0x00] 4 = 1 ∧ unpadLen [0x41, 0x00, 0x00, 0x00] 4 = 1 ∧
      unpadLen [0x41, 0x42, 0x43, 0x01] 4 = 4 ∧ unpadLen [0x80, 0x41] 1 = 0 := by decide

/-! ### The instructions -/

set_option maxRecDepth 20000 in
/-- V1, V2: the known-answer key. -/
theorem test_ksched_knownAnswer :
    (nextOf (exec (.ksched 0x1918111009080100) idle4)).map (·.ks) = some (.done sk1) := by decide
set_option maxRecDepth 20000 in
/-- V6: the all-ones key, its last subkey. -/
theorem test_ksched_allOnes : (keySchedule 0xFFFFFFFFFFFFFFFF)[21] = 0x3538 := by decide
set_option maxRecDepth 20000 in
/-- V1, V3: the known-answer vector. -/
theorem test_enc_knownAnswer :
    (nextOf (exec (.enc 0x6574694C sk1) idle4)).map (·.enc) = some (.done 0xA86842F2) := by decide
set_option maxRecDepth 20000 in
/-- V8: an array that no key gives. -/
theorem test_enc_anyArray :
    (nextOf (exec (.enc 0xFFFFFFFF (Vector.replicate 22 0)) busy4)).map (·.enc) = some (.done 0x3B986E74) := by decide
set_option maxRecDepth 20000 in
/-- V1, V4: the known-answer vector back. -/
theorem test_dec_knownAnswer :
    (nextOf (exec (.dec 0xA86842F2 sk1) idle4)).map (·.dec) = some (.done 0x6574694C) := by decide
set_option maxRecDepth 20000 in
/-- V8: an array that no key gives. -/
theorem test_dec_anyArray :
    (nextOf (exec (.dec 0x00000000 (Vector.replicate 22 0xFFFF)) busy4)).map (·.dec) = some (.done 0x305CB78E) := by decide
/-- V9: R101's example; the length MAX_LEN is legal. -/
theorem test_unpad_example :
    (nextOf (exec (.unpad [0x41, 0x42, 0x80, 0x00] 4) idle4)).map (·.up) =
      some (.done { bytes := [0x41, 0x42, 0x80, 0x00], len := 2 }) := by decide
/-- V9, V10 T8: MAX_LEN + 1 is LengthOutOfRange. -/
theorem test_unpad_outOfRange :
    (nextOf (exec (.unpad [0, 0, 0, 0] 5) done4)).map (fun t => (t.up, t.faults)) =
      some (.idle, [{ fault := .lengthOutOfRange 5, step := 0 }]) := by decide

/-! ### The first step after reset -/

/-- KSCHED of key 0 runs first. -/
theorem test_first_ksched :
    (nextOf (step (State.reset.withFetchWord 8 0))).map (fun t => doneFlag t.ks) = some true := by decide
/-- ENC runs first. -/
theorem test_first_enc :
    (nextOf (step (State.reset.withFetchWord 8 1))).map (fun t => doneFlag t.enc) = some true := by decide
/-- DEC runs first. -/
theorem test_first_dec :
    (nextOf (step (State.reset.withFetchWord 8 2))).map (fun t => doneFlag t.dec) = some true := by decide
/-- UNPAD runs first. -/
theorem test_first_unpad :
    (nextOf (step (State.reset.withFetchWord 8 3))).map (fun t => doneFlag t.up) = some true := by decide

/-! ### Edges, resets and reads (V10) -/

/-- T1: a read of an Idle unit. -/
theorem test_read_idle : (hostRead .ksSk idle4).faults = [{ fault := .readNoValue .ks .ksSk, step := 0 }] := by decide
/-- T4: a read of a Done unit. -/
theorem test_read_done : (hostRead .ksSk done4).received = [(.ksSk, .subkeys sk1)] := by decide
/-- T3 and R116: every start at a busy unit, in the order of the units; a length out of range is not looked at. -/
theorem test_startWhileBusy :
    (clockEdge allComplete (drivePorts (startAll 5) busy4)).faults.map (·.fault) =
      [.startWhileBusy .ks, .startWhileBusy .enc, .startWhileBusy .dec, .startWhileBusy .up] := by decide
/-- T9: MAX_LEN itself is legal; T5: the old result is discarded. -/
theorem test_accept :
    (clockEdge allComplete (drivePorts (startAll 4) done4)).up =
        .busy { bytes := [0x41, 0x42, 0x80, 0x00], len := 4 } ∧
      portValue .ksSk (clockEdge allComplete (drivePorts (startAll 4) done4)) = none := by decide
/-- T7: reset does not clear the fault record, and accepts nothing. -/
theorem test_reset :
    clockEdge allComplete
        { drivePorts { startAll 4 with rst := true } busy4 with faults := [{ fault := .startWhileBusy .ks, step := 0 }] } =
      { drivePorts { startAll 4 with rst := true } idle4 with
        faults := [{ fault := .startWhileBusy .ks, step := 0 }] } := by decide

/-! ### Witnesses: the hypotheses of each obligation are met -/

theorem witness_RotationsMoveEveryBit : (0 : Nat) ≤ 15 ∧ 15 ≤ 15 ∧ 0 < 16 ∧ 15 < 16 := by decide

/-- The greatest number R11 extends, and a borrow with its only `d` (V5). -/
theorem witness_AdditionAndSubtractionWrap :
    (65535 : Nat) < 2 ^ 16 ∧ (zext16 65535).toNat = 65535 ∧ (15 : Nat) < 16 ∧ add16 0xFFFE 0x0007 = 0x0005 := by decide

theorem witness_WordAlgebraLaws :
    (1 : Nat) ≤ 15 ∧ 1 ≤ 1 ∧ 15 ≤ 15 ∧ rotr16 0xBEEF 15 = rotl16 0xBEEF 1 ∧ rotr16 0xBEEF 1 = rotl16 0xBEEF 15 := by
  decide

/-- V2's flat value has `sk[21]` on top. -/
theorem witness_FlatSubkeysHoldTheirLanes :
    (0 : Nat) < 22 ∧ 21 < 22 ∧
      packSka sk1 =
        0xED6482293A52ED9B8ECA87B4F37E4617DB04EE8B597676F44E33EFEACCDB0C8977E269191458617D15120100 := by decide

theorem witness_MessageLanesHoldTheirBytes :
    0 < ([0x41] : List Byte).length ∧ 0 < 4 ∧ 3 < 4 ∧ lanesOf 4 [0x41] = [0x41, 0, 0, 0] := by decide

/-- R9 at the capacities 0, 7 and 8: the widths 1, 3 and 4. -/
theorem witness_LengthWidthIsTheLeast :
    (1 ≤ 1 ∧ 0 < 2 ^ 1 ∧ lenW 0 = 1) ∧ (1 ≤ 3 ∧ 7 < 2 ^ 3 ∧ lenW 7 = 3) ∧ (1 ≤ 4 ∧ 8 < 2 ^ 4 ∧ lenW 8 = 4) := by decide

/-- The boundary `len = msg.length`, and R101's example. -/
theorem witness_UnpadRemovesFillThenOneMarker :
    (4 ≤ ([0x41, 0x42, 0x80, 0x00] : List Byte).length) ∧ IsUnpadLength [0x41, 0x42, 0x80, 0x00] 4 2 :=
  ⟨by decide, 3, by decide, by decide, by decide, by decide⟩

theorem witness_UnpadReadsOnlyTheMessage : ∀ j, j < 1 → ([0x80, 0x41] : List Byte)[j]? = ([0x80] : List Byte)[j]? := by
  decide

theorem witness_UnpadIsUnconditional : (0x41 : Byte) ≠ 0x00 ∧ (0x41 : Byte) ≠ 0x80 := by decide

/-- Both ends of the removed bytes: the marker at 2, the fill at 3. -/
theorem witness_RemovedBytesAreFillOrTheMarker :
    (4 ≤ ([0x41, 0x42, 0x80, 0x00] : List Byte).length) ∧ unpadLen [0x41, 0x42, 0x80, 0x00] 4 ≤ 2 ∧ 2 < 4 ∧ 3 < 4 := by
  decide

/-- The lengths 0 and MAX_LEN. -/
theorem witness_UnpadPresentsTheTrimmedMessage :
    ([0x41, 0x42, 0x80, 0x00] : List Byte).length = idle4.maxLen ∧ 0 ≤ idle4.maxLen ∧ 4 ≤ idle4.maxLen := by decide

/-- The lengths MAX_LEN + 1 and 2^LEN_W - 1. -/
theorem witness_UnpadRefusesLengthOutOfRange :
    ([0, 0, 0, 0] : List Byte).length = done4.maxLen ∧ done4.maxLen < 5 ∧ 5 < 2 ^ lenW done4.maxLen ∧
      done4.maxLen < 7 ∧ 7 < 2 ^ lenW done4.maxLen := by decide

theorem witness_InstructionFrames :
    ∃ t1 t2 t3 t4 t5, exec (.ksched key1) busy4 = .next t1 ∧ exec (.enc 0 sk1) busy4 = .next t2 ∧
      exec (.dec 0 sk1) busy4 = .next t3 ∧ exec (.unpad [0, 0, 0, 0] 4) busy4 = .next t4 ∧
      exec (.unpad [0, 0, 0, 0] 5) busy4 = .next t5 := ⟨_, _, _, _, _, rfl, rfl, rfl, rfl, rfl⟩

/-- A statement that records a fault, so that the clause about the faults is not empty. -/
theorem witness_StatementsNeverMisuseThePorts :
    ∃ t, exec (.unpad [0, 0, 0, 0] 5) idle4 = .next t ∧
      t.faults = idle4.faults ++ [{ fault := .lengthOutOfRange 5, step := 0 }] := ⟨_, rfl, by decide⟩

/-- Idle and Done units, quiet ports, and the length MAX_LEN. -/
theorem witness_StatementIsThePortProtocol :
    portsQuiet done4.ports ∧ busyFlag done4.ks = false ∧ busyFlag idle4.enc = false ∧ busyFlag done4.dec = false ∧
      busyFlag idle4.up = false ∧ ([0, 0, 0, 0] : List Byte).length = done4.maxLen ∧ 4 ≤ done4.maxLen :=
  ⟨rfl, rfl, rfl, rfl, rfl, rfl, by decide⟩

/-- Every unit Busy, quiet ports. -/
theorem witness_StatementWaitsForABusyUnit :
    portsQuiet busy4.ports ∧ busyFlag busy4.ks = true ∧ busyFlag busy4.enc = true ∧ busyFlag busy4.dec = true ∧
      busyFlag busy4.up = true := ⟨rfl, rfl, rfl, rfl, rfl⟩

/-- Two blocks of one capacity in different states. -/
theorem witness_ResultsDependOnOperandsAlone :
    idle4.maxLen = busy4.maxLen ∧ ∃ s' t', exec (.ksched key1) idle4 = .next s' ∧ exec (.ksched key1) busy4 = .next t' :=
  ⟨rfl, _, _, rfl, rfl⟩

theorem witness_ResetMakesEveryUnitIdle :
    (drivePorts { startAll 4 with rst := true } busy4).ports.rst = true ∧
      ∃ c r, r.ports.rst = true ∧ clockEdge c (drivePorts { startAll 4 with rst := true } busy4) = clockEdge c r :=
  ⟨rfl, allComplete, drivePorts { startAll 4 with rst := true } busy4, rfl, rfl⟩

/-- Each clause: starts at Idle, Done and Busy units, and at UNPAD the lengths MAX_LEN and MAX_LEN + 1. -/
theorem witness_StartsAreAcceptedUnlessBusy :
    (drivePorts (startAll 4) done4).ports.rst = false ∧ (startAll 4).ksStart = true ∧ (startAll 4).encStart = true ∧
      (startAll 4).decStart = true ∧ (startAll 4).upStart = true ∧ busyFlag idle4.ks = false ∧
      busyFlag done4.enc = false ∧ busyFlag idle4.dec = false ∧ busyFlag done4.up = false ∧ busyFlag busy4.ks = true ∧
      busyFlag busy4.enc = true ∧ busyFlag busy4.dec = true ∧ busyFlag busy4.up = true ∧
      ¬ done4.maxLen < (startAll 4).upLen % 2 ^ lenW done4.maxLen ∧
      done4.maxLen < (startAll 5).upLen % 2 ^ lenW done4.maxLen := by decide

/-- Each unit Busy without a start, and UNPAD's message in range at the boundary. -/
theorem witness_BusyUnitsCompleteWithTheirResult :
    busy4.ports.rst = false ∧ busy4.ks = .busy key1 ∧ busy4.enc = .busy { block := 0x6574694C, sk := sk1 } ∧
      busy4.dec = .busy { block := 0xA86842F2, sk := sk1 } ∧
      busy4.up = .busy { bytes := [0x41, 0x42, 0x80, 0x00], len := 4 } ∧
      4 ≤ ([0x41, 0x42, 0x80, 0x00] : List Byte).length ∧ busy4.ports.ksStart = false ∧
      busy4.ports.encStart = false ∧ busy4.ports.decStart = false ∧ busy4.ports.upStart = false ∧
      allComplete.ks = true ∧ allComplete.enc = true ∧ allComplete.dec = true ∧ allComplete.up = true := by decide

/-- A start at each Busy unit, at its completing edge. -/
theorem witness_StartWhileBusyLeavesTheUnit :
    (drivePorts (startAll 5) busy4).ports.rst = false ∧ (startAll 5).ksStart = true ∧ busyFlag busy4.ks = true ∧
      (startAll 5).encStart = true ∧ busyFlag busy4.enc = true ∧ (startAll 5).decStart = true ∧
      busyFlag busy4.dec = true ∧ (startAll 5).upStart = true ∧ busyFlag busy4.up = true := by decide

/-- An edge with every kind of fault an edge can record. -/
theorem witness_EdgeFaultsInUnitOrder :
    (drivePorts (startAll 5) { busy4 with up := .idle }).ports.rst = false ∧
      (clockEdge .nobody (drivePorts (startAll 5) { busy4 with up := .idle })).faults.map (·.fault) =
        [.startWhileBusy .ks, .startWhileBusy .enc, .startWhileBusy .dec, .lengthOutOfRange 5] := by decide

/-- A state of each status, and a result port with and without a value. -/
theorem witness_FlagsFollowTheStatus :
    busyFlag busy4.ks = true ∧ doneFlag done4.ks = true ∧ busyFlag idle4.ks = false ∧ doneFlag idle4.ks = false ∧
      resultOf done4.ks = some sk1 ∧ portValue .ksSk done4 = some (.subkeys sk1) ∧ portValue .ksSk busy4 = none := by decide

/-- A drive and a read on the agenda. -/
theorem witness_OnlyEdgesAndStatementsChangeUnits :
    (∃ t, step { busy4 with agenda := [.drive (startAll 4)] } = .next t) ∧
      ∃ t, step { busy4 with agenda := [.read .encCt] } = .next t := ⟨⟨_, rfl⟩, ⟨_, rfl⟩⟩

/-- No start: Busy units with nobody completing, and Idle and Done units with every completion let happen. -/
theorem witness_QuietUnitsKeepTheirStatus :
    busy4.ports.rst = false ∧ busy4.ports.ksStart = false ∧ Completes.nobody.ks = false ∧
      busy4.ports.encStart = false ∧ Completes.nobody.enc = false ∧ busy4.ports.decStart = false ∧
      Completes.nobody.dec = false ∧ busy4.ports.upStart = false ∧ Completes.nobody.up = false ∧
      idle4.ports = busy4.ports ∧ done4.ports = busy4.ports ∧ busyFlag idle4.ks = false ∧ busyFlag idle4.enc = false ∧
      busyFlag idle4.dec = false ∧ busyFlag idle4.up = false ∧ busyFlag done4.ks = false ∧
      busyFlag done4.enc = false ∧ busyFlag done4.dec = false ∧ busyFlag done4.up = false ∧
      allComplete.ks = true ∧ allComplete.enc = true ∧ allComplete.dec = true ∧ allComplete.up = true := by decide

/-- Two edges without starts, on Done units. -/
theorem witness_DoneUnitsHoldTheirResult :
    (∀ e ∈ [(Ports.launch, allComplete), (Ports.launch, Completes.nobody)], e.1.rst = false ∧ e.1.ksStart = false ∧
        e.1.encStart = false ∧ e.1.decStart = false ∧ e.1.upStart = false) ∧
      done4.ks = .done sk1 ∧ done4.enc = .done 0xA86842F2 ∧ done4.dec = .done 0x6574694C ∧
      done4.up = .done { bytes := [0x41, 0x42, 0x80, 0x00], len := 2 } := by decide

/-- Two edges without starts, other operands on the ports, on Busy units. -/
theorem witness_CapturedOperandsAreCopies :
    (∀ e ∈ [((startAll 0).quiet, Completes.nobody), (Ports.launch, allComplete)], e.1.rst = false ∧ e.1.ksStart = false ∧
        e.1.encStart = false ∧ e.1.decStart = false ∧ e.1.upStart = false) ∧
      busy4.ks = .busy key1 ∧ busy4.enc = .busy { block := 0x6574694C, sk := sk1 } ∧
      busy4.dec = .busy { block := 0xA86842F2, sk := sk1 } ∧
      busy4.up = .busy { bytes := [0x41, 0x42, 0x80, 0x00], len := 4 } := by decide

/-- Two states that agree on KS alone, two on ENC alone, two on DEC alone, two on UNPAD alone. -/
theorem witness_UnitsAreIndependent :
    idle4.ports.rst = busy4.ports.rst ∧ { done4 with ks := busy4.ks }.ks = busy4.ks ∧
      { done4 with enc := busy4.enc }.enc = busy4.enc ∧ { done4 with dec := busy4.dec }.dec = busy4.dec ∧
      { done4 with up := busy4.up }.up = busy4.up ∧ done4.maxLen = busy4.maxLen ∧ done4.ports = busy4.ports ∧
      allComplete.ks = (Completes.only .ks).ks ∧ allComplete.enc = (Completes.only .enc).enc ∧
      allComplete.dec = (Completes.only .dec).dec ∧ allComplete.up = (Completes.only .up).up := by decide

/-- A port with a value and a port without one, of each unit. -/
theorem witness_ReadsGiveTheResultOrReadNoValue :
    portValue .ksSk done4 = some (.subkeys sk1) ∧ portValue .encCt done4 = some (.block 0xA86842F2) ∧
      portValue .decPt done4 = some (.block 0x6574694C) ∧ portValue .upLenOut done4 = some (.length 2) ∧
      portValue .ksBusy busy4 = some (.flag true) ∧ portValue .ksSk busy4 = none ∧ portValue .encCt idle4 = none ∧
      portValue .decPt busy4 = none ∧ portValue .upMsgOut idle4 = none := by decide

/-- A well-formed transaction of each operation, UNPAD's with the greatest length its port carries. -/
theorem witness_DecodeOfEncodeIsTheTransaction :
    (Instr.ksched key1).wellFormed 4 = true ∧ (Instr.enc 0x6574694C sk1).wellFormed 4 = true ∧
      (Instr.dec 0xA86842F2 sk1).wellFormed 4 = true ∧
      (Instr.unpad [0x41, 0x42, 0x80, 0x00] 7).wellFormed 4 = true := by decide

/-- A number that decodes, for each operation. -/
theorem witness_DecodedNumbersAreEncodings :
    (okOf (decode 4 0)).isSome = true ∧ (okOf (decode 4 1)).isSome = true ∧ (okOf (decode 4 2)).isSome = true ∧
      (okOf (decode 4 3)).isSome = true := by decide

theorem witness_LowBitsSelectTheOperation :
    okOf (decode 4 0) = some (.ksched 0) ∧ okOf (decode 4 1) = some (.enc 0 (Vector.replicate 22 0)) ∧
      okOf (decode 4 2) = some (.dec 0 (Vector.replicate 22 0)) ∧ okOf (decode 4 3) = some (.unpad [0, 0, 0, 0] 0) := by
  decide

/-- A state for each kind of next event, a transaction that decodes, an empty agenda, and a table word that decodes. -/
theorem witness_StepRunsTheDecodedInstruction :
    { busy4 with agenda := [.transaction 0] }.agenda = .transaction 0 :: [] ∧ decode 4 0 = .ok (.ksched 0) ∧
      { busy4 with agenda := [.drive (startAll 4)] }.agenda = .drive (startAll 4) :: [] ∧
      { busy4 with agenda := [.edge allComplete] }.agenda = .edge allComplete :: [] ∧
      { done4 with agenda := [.read .encCt] }.agenda = .read .encCt :: [] ∧ busy4.agenda = [] ∧
      decodeTableWord 8 0 = some (.ksched 0) := ⟨rfl, rfl, rfl, rfl, rfl, rfl, by decide⟩

/-- Both outcomes of a step. -/
theorem witness_StepsGoOnUnlessTheNumberIsNoTransaction :
    (∃ t, step { busy4 with agenda := [.transaction 0] } = .next t) ∧
      step { busy4 with agenda := [.transaction (2 ^ 66)] } = .refused .badTransaction := ⟨⟨_, rfl⟩, rfl⟩

/-- A step that appends to the record, and a state that is final without the fault. -/
theorem witness_TheFaultRecordOnlyGrows :
    (∃ t, step { idle4 with agenda := [.read .ksSk] } = .next t ∧ t.faults ≠ [] ∧ t.final = false) ∧
      idle4.final = true := ⟨⟨_, rfl, by decide, by decide⟩, by decide⟩

theorem witness_TheCapacityNeverChanges : ∃ t, step { busy4 with agenda := [.edge allComplete] } = .next t := ⟨_, rfl⟩

/-- The state of `busy4` after a fault, which meets the invariant and steps. -/
theorem witness_EveryStepKeepsTheInvariant :
    State.Inv { busy4 with faults := [{ fault := .lengthOutOfRange 7, step := 0 }], agenda := [.edge allComplete] } ∧
      ∃ t, step { busy4 with faults := [{ fault := .lengthOutOfRange 7, step := 0 }], agenda := [.edge allComplete] } =
        .next t :=
  ⟨⟨⟨rfl, le_refl 4⟩, by
      intro r h
      rw [List.mem_singleton.1 h]
      exact ⟨⟨by decide, by decide⟩, le_refl 0⟩⟩, _, rfl⟩

/-- A Busy and a Done UNPAD, the Busy one's length MAX_LEN. -/
theorem witness_TheInvariantKeepsTheScanInRange :
    busy4.Inv ∧ busy4.up = .busy { bytes := [0x41, 0x42, 0x80, 0x00], len := 4 } ∧ done4.Inv ∧
      done4.up = .done { bytes := [0x41, 0x42, 0x80, 0x00], len := 2 } :=
  ⟨⟨⟨rfl, le_refl 4⟩, by intro r h; cases h⟩, rfl, ⟨⟨rfl, by decide⟩, by intro r h; cases h⟩, rfl⟩

/-- Every unit accepted at one edge, with LAT_u = 2 for each: Busy after one more edge, Done after two. -/
theorem witness_CompletionIsAtTheLatencysEdge :
    let lat : Latencies := { ks := fun _ => 1, enc := fun _ => 1, dec := fun _ => 1, up := fun _ => 1 }
    let c : CycleState := { machine := done4, ksAge := 0, encAge := 0, decAge := 0, upAge := 0 }
    (startAll 4).rst = false ∧ (∀ q ∈ [Ports.launch, Ports.launch], q.rst = false ∧ q.ksStart = false ∧
        q.encStart = false ∧ q.decStart = false ∧ q.upStart = false) ∧
      busyFlag c.machine.ks = false ∧ busyFlag c.machine.enc = false ∧ busyFlag c.machine.dec = false ∧
      busyFlag c.machine.up = false ∧ (sampledMessage c.machine.maxLen (startAll 4)).len ≤ c.machine.maxLen ∧
      (cycleRun lat [Ports.launch] (cycleEdge lat (startAll 4) c)).machine.up =
        .busy { bytes := [0x41, 0x42, 0x80, 0x00], len := 4 } ∧
      (cycleRun lat [Ports.launch, Ports.launch] (cycleEdge lat (startAll 4) c)).machine.up =
        .done { bytes := [0x41, 0x42, 0x80, 0x00], len := 2 } := by decide

/-- The cycle-level edges of V10: `enc_start` held for two edges is StartWhileBusy at the second, whose number the fault
records. -/
theorem test_cycle_fault_edge :
    let lat : Latencies := { ks := fun _ => 1, enc := fun _ => 1, dec := fun _ => 1, up := fun _ => 1 }
    let c : CycleState := { machine := idle4, ksAge := 0, encAge := 0, decAge := 0, upAge := 0 }
    let p : Ports := { Ports.launch with encStart := true, encPt := 0x6574694C, encSk := sk1 }
    (cycleRun lat [p, p] c).machine.faults = [{ fault := .startWhileBusy .enc, step := 2 }] := by decide

/-- A run from `busy4` in which the host has stopped. -/
def idleRun : Nat → State
  | 0 => busy4
  | n + 1 => clockEdge (freeSchedule ((idleRun n).now + 1)) ((idleRun n).advance [])

theorem idleRun_agenda (n : Nat) : (idleRun n).agenda = [] := by
  cases n with
  | zero => rfl
  | succ n => simp [idleRun]

/-- An infinite run, and a state with every unit Busy, no agenda, `rst` and every start low. -/
theorem witness_RunsAreWeaklyFair :
    IsRun idleRun ∧ busy4.agenda = [] ∧ busy4.ports.rst = false ∧ busy4.ks = .busy key1 ∧
      busy4.ports.ksStart = false ∧ busy4.enc = .busy { block := 0x6574694C, sk := sk1 } ∧
      busy4.ports.encStart = false ∧ busy4.dec = .busy { block := 0xA86842F2, sk := sk1 } ∧
      busy4.ports.decStart = false ∧ busy4.up = .busy { bytes := [0x41, 0x42, 0x80, 0x00], len := 4 } ∧
      busy4.ports.upStart = false :=
  ⟨fun n => step_of_empty (idleRun_agenda n), rfl, rfl, rfl, rfl, rfl, rfl, rfl, rfl, rfl, rfl⟩

/-- P2's message just fits a block of capacity 8; a length that is no multiple of 4, beyond a list of the whole groups. -/
theorem witness_MessageRoundTrip :
    (padMessage [0x53, 0x70, 0x65, 0x63, 0x6B]).length ≤ (State.launch 8).maxLen ∧
      4 * (7 / 4) ≤ ([0x65, 0x74, 0x69, 0x4C] : List Byte).length ∧ 4 * (7 / 4) ≤ idle4.maxLen := by decide

set_option maxRecDepth 20000 in
/-- R66: of five bytes with length 6 only the first block is encrypted (V1). -/
theorem test_encMessage_drops_tail :
    (encMessage [0x65, 0x74, 0x69, 0x4C, 0x41] 6 sk1 idle4).map (·.1) = some [0xA8, 0x68, 0x42, 0xF2] := by decide

end Sys2Proof.Machine.Tests
end

section
/-! The width of a length (R9). -/

namespace Sys2Proof.Machine

/-- Every width of at least 1 that holds MAX_LEN is at least LEN_W. Capacity 0 stands apart: it needs no bit, and the width
is still 1. -/
theorem lenW_le_of_lt_two_pow {maxLen w : Nat} (hw : 1 ≤ w) (h : maxLen < 2 ^ w) : lenW maxLen ≤ w := by
  rcases Nat.eq_zero_or_pos maxLen with rfl | hpos
  · simpa [lenW] using hw
  · exact (Nat.log2_lt hpos.ne').mpr h

/-- Settles O8: LEN_W is a successor, it holds MAX_LEN, and no smaller width does. -/
theorem lengthWidthIsTheLeast : Obligations.LengthWidthIsTheLeast := fun maxLen =>
  ⟨Nat.le_add_left 1 _, maxLen_lt_lenW maxLen, fun _ hw h => lenW_le_of_lt_two_pow hw h⟩

end Sys2Proof.Machine
end

section
/-! MAX_LEN is a parameter of the block: reads, statements and steps leave it (R9, R33). -/

namespace Sys2Proof.Machine

@[simp] theorem hostRead_maxLen (p : OutPort) (s : State) : (hostRead p s).maxLen = s.maxLen := by
  rcases hostRead_cases p s with ⟨v, _, e⟩ | ⟨_, e⟩ <;> simp [e]

@[simp] theorem copyPort_maxLen (s : State) (p : OutPort) : (copyPort s p).maxLen = s.maxLen := by
  unfold copyPort; split <;> simp

@[simp] theorem foldl_copyPort_maxLen (ps : List OutPort) (s : State) : (ps.foldl copyPort s).maxLen = s.maxLen := by
  induction ps generalizing s with
  | nil => rfl
  | cons p ps ih => rw [List.foldl_cons, ih, copyPort_maxLen]

@[simp] theorem runStatement_maxLen (u : UnitName) (request : Ports → Ports) (s : State) :
    (runStatement u request s).maxLen = s.maxLen := by
  simp [runStatement]

/-- An instruction is one statement on its unit, so it leaves MAX_LEN. -/
theorem exec_maxLen {i : Instr} {s t : State} (h : exec i s = .next t) : t.maxLen = s.maxLen := by
  cases i <;> cases h <;> exact runStatement_maxLen _ _ _

/-- Settles O53, by what one step can do: an edge of the clock, a read, a drive of the ports, or an instruction. -/
theorem theCapacityNeverChanges : Obligations.TheCapacityNeverChanges := by
  intro s t h
  rcases step_cases h with ⟨c, rfl⟩ | ⟨p, rfl⟩ | ⟨p, rfl⟩ | ⟨_, i, _, hx⟩
  · rw [clockEdge_maxLen, State.advance_maxLen]
  · rw [hostRead_maxLen, State.advance_maxLen]
  · rw [drivePorts_maxLen, State.advance_maxLen]
  · rw [exec_maxLen hx, State.advance_maxLen]

end Sys2Proof.Machine
end

section
/-! Properties that every operation of the block keeps: shown once of the operations a step is made of, they hold after
every step. -/

namespace Sys2Proof.Machine

/-- `P` is kept when the next step begins, when the host drives the ports, at an edge of the clock, and at a read. -/
structure KeptByOperations (P : State → Prop) : Prop where
  advance : ∀ rest s, P s → P (s.advance rest)
  drive : ∀ p s, P s → P (drivePorts p s)
  edge : ∀ c s, P s → P (clockEdge c s)
  read : ∀ p s, P s → P (hostRead p s)

/-- Copying a result port is a read of it, or nothing where it has no value. -/
theorem copyPort_cases (s : State) (p : OutPort) : copyPort s p = hostRead p s ∨ copyPort s p = s := by
  unfold copyPort hostRead
  cases portValue p s with
  | some v => exact .inl rfl
  | none => exact .inr rfl

section
variable {P : State → Prop} (hP : KeptByOperations P) {s t : State}
include hP

theorem copyPort_keeps (p : OutPort) (h : P s) : P (copyPort s p) := by
  rcases copyPort_cases s p with e | e <;> rw [e]
  · exact hP.read p s h
  · exact h

theorem foldl_copyPort_keeps (ps : List OutPort) (h : P s) : P (ps.foldl copyPort s) := by
  induction ps generalizing s with
  | nil => exact h
  | cons p ps ih => exact ih (copyPort_keeps hP p h)

/-- A statement drives the ports before each of its three edges, and then copies results. -/
theorem runStatement_keeps (u : UnitName) (request : Ports → Ports) (h : P s) : P (runStatement u request s) := by
  have drive_edge {r : State} (c : Completes) (p : Ports) (hr : P r) : P (clockEdge c (drivePorts p r)) :=
    hP.edge c _ (hP.drive p r hr)
  exact foldl_copyPort_keeps hP _ (drive_edge _ _ (drive_edge _ _ (drive_edge _ _ h)))

theorem exec_keeps {i : Instr} (hx : exec i s = .next t) (h : P s) : P t := by
  cases i <;> cases hx <;> exact runStatement_keeps hP _ _ h

theorem step_keeps (hs : step s = .next t) (h : P s) : P t := by
  have hadv : P (s.advance s.agenda.tail) := hP.advance _ s h
  rcases step_cases hs with ⟨c, rfl⟩ | ⟨p, rfl⟩ | ⟨p, rfl⟩ | ⟨_, i, _, hx⟩
  · exact hP.edge c _ hadv
  · exact hP.read p _ hadv
  · exact hP.drive p _ hadv
  · exact exec_keeps hP hx hadv

end

end Sys2Proof.Machine
end

section
/-! The invariant (R26, R57, R100, R113): what it says of UNPAD and of the fault record, at reset and after every step. -/

namespace Sys2Proof.Machine

/-! ### The length UNPAD leaves -/

theorem stripFill_le (msg : List Byte) (n : Nat) : stripFill msg n ≤ n := by
  induction n with
  | zero => exact Nat.le_refl 0
  | succ n ih =>
    rw [stripFill]
    split
    · exact Nat.le_succ_of_le ih
    · exact Nat.le_refl _

theorem stripMarker_le (msg : List Byte) (n : Nat) : stripMarker msg n ≤ n := by
  cases n with
  | zero => exact Nat.le_refl 0
  | succ n => rw [stripMarker]; split <;> omega

/-- Unpad never makes a message longer (R108). -/
theorem unpadLen_le (msg : List Byte) (len : Nat) : unpadLen msg len ≤ len :=
  (stripMarker_le msg _).trans (stripFill_le msg len)

theorem messageFits_unpadResult {maxLen : Nat} {m : Message} (h : messageFits maxLen m) :
    messageFits maxLen (unpadResult m) :=
  ⟨h.1, (unpadLen_le m.bytes m.len).trans h.2⟩

/-! ### What one unit can do at an edge, and what UNPAD then holds -/

/-- An edge leaves a unit as it is, makes it Busy with the operands on its ports if it is started while not Busy, or makes
it Done with the result of the operands it captured. -/
theorem unitEdge_cases {Ops Res : Type} (start : Bool) (ops : Ops) (c : Bool) (f : Ops → Res) (st : UnitStatus Ops Res) :
    unitEdge start ops c f st = st ∨
      (start = true ∧ busyFlag st = false ∧ unitEdge start ops c f st = .busy ops) ∨
      ∃ o, st = .busy o ∧ unitEdge start ops c f st = .done (f o) := by
  cases st with
  | idle => cases start <;> simp [unitEdge, busyFlag]
  | busy o => cases start <;> cases c <;> simp [unitEdge, busyFlag]
  | done r => cases start <;> simp [unitEdge, busyFlag]

/-- The length check fails where UNPAD is started while not Busy with a length above MAX_LEN (R113, R116 b). -/
theorem lengthFails_iff (s : State) :
    lengthFails s = true ↔
      s.ports.upStart = true ∧ busyFlag s.up = false ∧ s.maxLen < (sampledMessage s.maxLen s.ports).len := by
  simp [lengthFails, and_assoc]

/-- A start that passes the length check captures a message of this block (R100). -/
theorem messageFits_sampledMessage {s : State} (hl : lengthFails s ≠ true) (hstart : s.ports.upStart = true)
    (hbusy : busyFlag s.up = false) : messageFits s.maxLen (sampledMessage s.maxLen s.ports) :=
  ⟨lanesOf_length _ _, Nat.not_lt.mp fun hlt => hl ((lengthFails_iff s).mpr ⟨hstart, hbusy, hlt⟩)⟩

/-- Where UNPAD holds a message and the length check does not fail, it holds a message after the edge. -/
theorem unpadHoldsMessage_unitEdge (c : Bool) {s : State} (hl : lengthFails s ≠ true)
    (h : unpadHoldsMessage s.maxLen s.up) :
    unpadHoldsMessage s.maxLen
      (unitEdge s.ports.upStart (sampledMessage s.maxLen s.ports) c unpadResult s.up) := by
  rcases unitEdge_cases s.ports.upStart (sampledMessage s.maxLen s.ports) c unpadResult s.up with
    e | ⟨hstart, hbusy, e⟩ | ⟨m, hm, e⟩ <;> rw [e]
  · exact h
  · exact messageFits_sampledMessage hl hstart hbusy
  · rw [hm] at h
    exact messageFits_unpadResult h

/-- A flag always has a value, so a port without one is a result port of its unit (R30). -/
theorem mem_resultPorts_of_portValue_none {p : OutPort} {s : State} (h : portValue p s = none) :
    p ∈ resultPorts (portUnit p) := by
  cases p with
  | ksBusy | ksDone | encBusy | encDone | decBusy | decDone | upBusy | upDone => cases h
  | ksSk | encCt | decPt | upMsgOut | upLenOut => simp [portUnit, resultPorts]

/-! ### The invariant after each operation -/

section
variable {s : State}

theorem inv_setKs {v : UnitStatus (BitVec 64) SubkeyArray} : (s.setKs v).Inv ↔ s.Inv := Iff.rfl
theorem inv_setEnc {v : UnitStatus CipherOps (BitVec 32)} : (s.setEnc v).Inv ↔ s.Inv := Iff.rfl
theorem inv_setDec {v : UnitStatus CipherOps (BitVec 32)} : (s.setDec v).Inv ↔ s.Inv := Iff.rfl
theorem inv_drivePorts {p : Ports} : (drivePorts p s).Inv ↔ s.Inv := Iff.rfl
theorem inv_receive {p : OutPort} {v : PortValue} : (receive p v s).Inv ↔ s.Inv := Iff.rfl

theorem inv_setUp {v : UnitStatus Message Message} (h : s.Inv) (hv : unpadHoldsMessage s.maxLen v) : (s.setUp v).Inv :=
  ⟨hv, h.2⟩

theorem inv_advance (rest : List Event) (h : s.Inv) : (s.advance rest).Inv :=
  ⟨h.1, fun r hr => (h.2 r hr).imp_right Nat.le_succ_of_le⟩

/-- A fault that is possible on this block may be recorded: its step is the present one. -/
theorem inv_raiseFault {f : Fault} (h : s.Inv) (hf : faultPossible s.maxLen f) : (raiseFault f s).Inv := by
  refine ⟨h.1, fun r hr => ?_⟩
  rw [raiseFault_faults, List.mem_append, List.mem_singleton] at hr
  rcases hr with hr | rfl
  · exact h.2 r hr
  · exact ⟨hf, Nat.le_refl _⟩

theorem inv_startFault (u : UnitName) (start busy : Bool) (h : s.Inv) : (startFault u start busy s).Inv := by
  rcases startFault_eq u start busy s with e | e <;> rw [e]
  · exact h
  · exact inv_raiseFault h trivial

theorem inv_edgeKs (c : Bool) (h : s.Inv) : (edgeKs c s).Inv := inv_setKs.mpr (inv_startFault _ _ _ h)
theorem inv_edgeEnc (c : Bool) (h : s.Inv) : (edgeEnc c s).Inv := inv_setEnc.mpr (inv_startFault _ _ _ h)
theorem inv_edgeDec (c : Bool) (h : s.Inv) : (edgeDec c s).Inv := inv_setDec.mpr (inv_startFault _ _ _ h)

theorem inv_edgeUp (c : Bool) (h : s.Inv) : (edgeUp c s).Inv := by
  unfold edgeUp
  split <;> rename_i hl
  · obtain ⟨-, -, hlt⟩ := (lengthFails_iff s).mp hl
    exact inv_setUp (inv_raiseFault h ⟨hlt, lowBits_lt _ _⟩) trivial
  · refine inv_setUp (inv_startFault _ _ _ h) ?_
    rw [startFault_maxLen]
    exact unpadHoldsMessage_unitEdge c hl h.1

theorem inv_resetUnits (h : s.Inv) : (resetUnits s).Inv := inv_setUp h trivial

theorem inv_clockEdge (c : Completes) (h : s.Inv) : (clockEdge c s).Inv := by
  cases hr : s.ports.rst with
  | true => rw [clockEdge_of_rst c hr]; exact inv_resetUnits h
  | false =>
    rw [clockEdge_of_noRst c hr]
    exact inv_edgeUp _ (inv_edgeDec _ (inv_edgeEnc _ (inv_edgeKs _ h)))

theorem inv_hostRead (p : OutPort) (h : s.Inv) : (hostRead p s).Inv := by
  rcases hostRead_cases p s with ⟨v, _, e⟩ | ⟨hnone, e⟩ <;> rw [e]
  · exact inv_receive.mpr h
  · exact inv_raiseFault h (mem_resultPorts_of_portValue_none hnone)

end

theorem keptByOperations_inv : KeptByOperations State.Inv where
  advance rest _ h := inv_advance rest h
  drive _ _ h := inv_drivePorts.mpr h
  edge c _ h := inv_clockEdge c h
  read p _ h := inv_hostRead p h

/-- Settles O54: each operation a step is made of keeps the invariant. -/
theorem everyStepKeepsTheInvariant : Obligations.EveryStepKeepsTheInvariant :=
  fun _ _ h hs => step_keeps keptByOperations_inv hs h

/-- At launch UNPAD holds nothing and nothing is recorded, whatever the capacity is. -/
theorem inv_launch (maxLen : Nat) : (State.launch maxLen).Inv :=
  ⟨trivial, fun _ hr => nomatch hr⟩

/-- Settles O55: the reset state is the launch state of the capacity `Config.maxLen`. -/
theorem resetMeetsTheInvariant : Obligations.ResetMeetsTheInvariant := inv_launch Config.maxLen

theorem messageFits_len_le {maxLen : Nat} {m : Message} (h : messageFits maxLen m) : m.len ≤ m.bytes.length :=
  h.2.trans_eq h.1.symm

/-- Settles O56: what UNPAD holds, Busy or Done, fits the block. -/
theorem theInvariantKeepsTheScanInRange : Obligations.TheInvariantKeepsTheScanInRange := by
  intro s m ⟨hup, _⟩ hm
  rcases hm with hm | hm <;> rw [hm] at hup
  · exact messageFits_len_le hup
  · exact messageFits_len_le hup

end Sys2Proof.Machine
end

section
/-! The fault record is only appended to (R31, R118). -/

namespace Sys2Proof.Machine

theorem faults_isPrefix_hostRead (p : OutPort) (s : State) : s.faults <+: (hostRead p s).faults := by
  rcases hostRead_cases p s with ⟨v, _, e⟩ | ⟨_, e⟩ <;> rw [e]
  · exact ⟨[], List.append_nil _⟩
  · exact ⟨_, rfl⟩

theorem faults_isPrefix_clockEdge (c : Completes) (s : State) : s.faults <+: (clockEdge c s).faults := by
  obtain ⟨fs, e⟩ := clockEdge_faults_grow c s
  exact ⟨fs, e.symm⟩

theorem keptByOperations_faultsExtend (fs : List FaultRecord) : KeptByOperations fun s => fs <+: s.faults where
  advance _ _ h := h
  drive _ _ h := h
  edge c s h := h.trans (faults_isPrefix_clockEdge c s)
  read p s h := h.trans (faults_isPrefix_hostRead p s)

theorem final_eq_false_of_faults {s : State} (h : s.faults ≠ []) : s.final = false := by
  simp [State.final, State.clean, h]

/-- Settles O52: an edge and a read only append to the record, and so does a step. -/
theorem theFaultRecordOnlyGrows : Obligations.TheFaultRecordOnlyGrows := by
  refine ⟨State.launch_faults _, fun s t hs => ?_, fun s => final_eq_false_of_faults⟩
  obtain ⟨fs, e⟩ := step_keeps (keptByOperations_faultsExtend s.faults) hs ⟨[], List.append_nil _⟩
  exact ⟨fs, e.symm⟩

end Sys2Proof.Machine
end

section
/-! What each instruction leaves unchanged (R17, R42, R46, R64). -/

namespace Sys2Proof.Machine

theorem exec_ksched (key : BitVec 64) (s : State) :
    exec (.ksched key) s = .next (runStatement .ks (requestKs key) s) := rfl
theorem exec_enc (pt : BitVec 32) (sk : SubkeyArray) (s : State) :
    exec (.enc pt sk) s = .next (runStatement .enc (requestEnc pt sk) s) := rfl
theorem exec_dec (ct : BitVec 32) (sk : SubkeyArray) (s : State) :
    exec (.dec ct sk) s = .next (runStatement .dec (requestDec ct sk) s) := rfl
theorem exec_unpad (msg : List Byte) (len : Nat) (s : State) :
    exec (.unpad msg len) s = .next (runStatement .up (requestUp msg len) s) := rfl

/-- Settles O27: the state each instruction answers is a record update of the one before, which leaves the other fields.
UNPAD has two answers: it presents a result, or refuses a length out of range. -/
theorem instructionFrames : Obligations.InstructionFrames := by
  intro i s t h
  cases i with
  | ksched key =>
    rw [exec_ksched, runStatement_ks] at h
    cases h
    exact ⟨rfl, rfl, rfl, rfl, rfl, rfl, rfl, rfl, rfl⟩
  | enc pt sk =>
    rw [exec_enc, runStatement_enc] at h
    cases h
    exact ⟨rfl, rfl, rfl, rfl, rfl, rfl, rfl, rfl, rfl⟩
  | dec ct sk =>
    rw [exec_dec, runStatement_dec] at h
    cases h
    exact ⟨rfl, rfl, rfl, rfl, rfl, rfl, rfl, rfl, rfl⟩
  | unpad msg len =>
    rw [exec_unpad, runStatement_up] at h
    split at h <;> rename_i hl <;> cases h
    · exact ⟨rfl, rfl, rfl, rfl, rfl, rfl, rfl, .inr ⟨rfl, rfl, _, hl, rfl⟩⟩
    · exact ⟨rfl, rfl, rfl, rfl, rfl, rfl, rfl, .inl ⟨rfl, _, rfl, rfl⟩⟩

end Sys2Proof.Machine
end

section
/-! What changes a unit's status, and what it depends on (R17, R25, R39, R41, R45, R46, R131). -/

namespace Sys2Proof.Machine

theorem sameUnits_hostRead (p : OutPort) (s : State) : sameUnits (hostRead p s) s := by
  rcases hostRead_cases p s with ⟨v, _, e⟩ | ⟨_, e⟩ <;> rw [e] <;> exact ⟨rfl, rfl, rfl, rfl⟩

/-- Settles O38: taking an event off the agenda, driving the ports and a read leave the four units. -/
theorem onlyEdgesAndStatementsChangeUnits : Obligations.OnlyEdgesAndStatementsChangeUnits := by
  intro s t e rest ha hs he
  rw [step_of_event ha] at hs
  rcases he with ⟨p, rfl⟩ | ⟨p, rfl⟩ <;> cases hs
  · exact ⟨rfl, rfl, rfl, rfl⟩
  · exact sameUnits_hostRead p (s.advance rest)

/-- Without a start only a Busy unit at its completing edge changes. -/
theorem unitEdge_noStart {Ops Res : Type} (ops : Ops) {c : Bool} (f : Ops → Res) {st : UnitStatus Ops Res}
    (h : busyFlag st = false ∨ c = false) : unitEdge false ops c f st = st := by
  rcases h with h | rfl
  · exact unitEdge_notBusy ops f c h
  · exact unitEdge_hold ops f st

/-- Settles O39: each unit's status after the edge is that of `unitEdge` without a start; UNPAD's length check does not fail
without a start. -/
theorem quietUnitsKeepTheirStatus : Obligations.QuietUnitsKeepTheirStatus := by
  intro c s hr
  refine ⟨fun hs hq => ?_, fun hs hq => ?_, fun hs hq => ?_, fun hs hq => ?_⟩
  · simp [clockEdge_ks, hr, hs, unitEdge_noStart _ _ hq]
  · simp [clockEdge_enc, hr, hs, unitEdge_noStart _ _ hq]
  · simp [clockEdge_dec, hr, hs, unitEdge_noStart _ _ hq]
  · simp [clockEdge_up, hr, hs, lengthFails_quiet hs, unitEdge_noStart _ _ hq]

theorem sampledMessage_congr {p q : Ports} (maxLen : Nat) (hmsg : p.upMsg = q.upMsg) (hlen : p.upLen = q.upLen) :
    sampledMessage maxLen p = sampledMessage maxLen q := by
  rw [sampledMessage, sampledMessage, hmsg, hlen]

/-- Settles O42: a unit's status after an edge is given by its own status, ports and completion, and `rst`. -/
theorem unitsAreIndependent : Obligations.UnitsAreIndependent := by
  intro c d s t hr
  refine ⟨fun hst hstart hkey hc => ?_, fun hst hstart hpt hsk hc => ?_, fun hst hstart hct hsk hc => ?_,
    fun hmax hst hstart hmsg hlen hc => ?_⟩
  · rw [clockEdge_ks, clockEdge_ks, hr, hst, hstart, hkey, hc]
  · rw [clockEdge_enc, clockEdge_enc, hr, hst, hstart, hpt, hsk, hc]
  · rw [clockEdge_dec, clockEdge_dec, hr, hst, hstart, hct, hsk, hc]
  · have hsample := sampledMessage_congr t.maxLen hmsg hlen
    have hfails : lengthFails s = lengthFails t := by
      rw [lengthFails, lengthFails, hmax, hst, hstart, hsample]
    rw [clockEdge_up, clockEdge_up, hfails, hr, hmax, hst, hstart, hsample, hc]

end Sys2Proof.Machine
end

section
/-! The status flags and the output ports by the status (R25, R30). -/

namespace Sys2Proof.Machine

section
variable {Ops Res : Type}

@[simp] theorem busyFlag_idle : busyFlag (.idle : UnitStatus Ops Res) = false := rfl
@[simp] theorem busyFlag_busy (o : Ops) : busyFlag (.busy o : UnitStatus Ops Res) = true := rfl
@[simp] theorem busyFlag_done (r : Res) : busyFlag (.done r : UnitStatus Ops Res) = false := rfl
@[simp] theorem doneFlag_idle : doneFlag (.idle : UnitStatus Ops Res) = false := rfl
@[simp] theorem doneFlag_busy (o : Ops) : doneFlag (.busy o : UnitStatus Ops Res) = false := rfl
@[simp] theorem doneFlag_done (r : Res) : doneFlag (.done r : UnitStatus Ops Res) = true := rfl
@[simp] theorem resultOf_idle : resultOf (.idle : UnitStatus Ops Res) = none := rfl
@[simp] theorem resultOf_busy (o : Ops) : resultOf (.busy o : UnitStatus Ops Res) = none := rfl
@[simp] theorem resultOf_done (r : Res) : resultOf (.done r : UnitStatus Ops Res) = some r := rfl

theorem busyFlag_eq_true_iff (st : UnitStatus Ops Res) : busyFlag st = true ↔ ∃ o, st = .busy o := by
  cases st <;> simp

theorem doneFlag_eq_true_iff (st : UnitStatus Ops Res) : doneFlag st = true ↔ ∃ r, st = .done r := by
  cases st <;> simp

theorem busyFlag_and_doneFlag (st : UnitStatus Ops Res) : (busyFlag st && doneFlag st) = false := by
  cases st <;> rfl

theorem eq_idle_of_flags {st : UnitStatus Ops Res} (hb : busyFlag st = false) (hd : doneFlag st = false) :
    st = .idle := by
  cases st with
  | idle => rfl
  | busy o => cases hb
  | done r => cases hd

theorem resultOf_eq_some_iff (st : UnitStatus Ops Res) (r : Res) : resultOf st = some r ↔ st = .done r := by
  cases st <;> simp

end

/-- Settles O37: R25's table, unit by unit and status by status. -/
theorem flagsFollowTheStatus : Obligations.FlagsFollowTheStatus := by
  refine ⟨fun s => ⟨?_, ?_, ?_, ?_⟩, fun Ops Res st => ⟨busyFlag_and_doneFlag st, busyFlag_eq_true_iff st,
    doneFlag_eq_true_iff st, eq_idle_of_flags, resultOf_eq_some_iff st⟩⟩
  · cases h : s.ks <;> simp [portValue, h]
  · cases h : s.enc <;> simp [portValue, h]
  · cases h : s.dec <;> simp [portValue, h]
  · cases h : s.up <;> simp [portValue, h]

end Sys2Proof.Machine
end

section
/-! KEY64: the key's words and bytes, and their places (R34, R54). -/

namespace Sys2Proof.Machine

/-- Two bytes that stand one above the other are a word, the high one first (R34). -/
theorem extractWord_of_bytes {w i : Nat} {x : BitVec w} {hi lo : Byte} (hhi : x.extractLsb' (i + 8) 8 = hi)
    (hlo : x.extractLsb' i 8 = lo) : x.extractLsb' i 16 = hi ++ lo := by
  rw [← hhi, ← hlo]
  exact (BitVec.extractLsb'_append_extractLsb'_eq_extractLsb' (len₁ := 8) (len₂ := 8) rfl).symm

/-- Every key is its four words put together, `k3` the highest: each step joins one word to those above it. -/
theorem keyWords_append (key : BitVec 64) : keyK3 key ++ keyK2 key ++ keyK1 key ++ keyK0 key = key := by
  have h32 : keyK3 key ++ keyK2 key = key.extractLsb' 32 32 :=
    BitVec.extractLsb'_append_extractLsb'_eq_extractLsb' rfl
  have h16 : key.extractLsb' 32 32 ++ keyK1 key = key.extractLsb' 16 48 :=
    BitVec.extractLsb'_append_extractLsb'_eq_extractLsb' rfl
  have h0 : key.extractLsb' 16 48 ++ keyK0 key = key.extractLsb' 0 64 :=
    BitVec.extractLsb'_append_extractLsb'_eq_extractLsb' rfl
  rw [h32, h16, h0, BitVec.extractLsb'_eq_self]

section
variable {w i : Nat} {hi : BitVec w} {lo b : Byte}

/-- The lowest byte of a vector is the last one appended to it. -/
theorem extractByte_append_low : (hi ++ lo).extractLsb' 0 8 = lo := by
  rw [BitVec.extractLsb'_append_eq_of_add_le (Nat.le_refl _), BitVec.extractLsb'_eq_self]

/-- Appending a byte moves every byte before it up by 8 bits. -/
theorem extractByte_append_high (h : hi.extractLsb' i 8 = b) : (hi ++ lo).extractLsb' (i + 8) 8 = b := by
  rw [BitVec.extractLsb'_append_eq_of_le (Nat.le_add_left 8 i), Nat.add_sub_cancel, h]

end

/-- Byte `K[j]` of the key stands in bits `[63-8j : 56-8j]` (R54). -/
theorem extractByte_keyOfBytes (b0 b1 b2 b3 b4 b5 b6 b7 : Byte) :
    let key := keyOfBytes b0 b1 b2 b3 b4 b5 b6 b7
    key.extractLsb' 56 8 = b0 ∧ key.extractLsb' 48 8 = b1 ∧ key.extractLsb' 40 8 = b2 ∧
      key.extractLsb' 32 8 = b3 ∧ key.extractLsb' 24 8 = b4 ∧ key.extractLsb' 16 8 = b5 ∧
      key.extractLsb' 8 8 = b6 ∧ key.extractLsb' 0 8 = b7 := by
  have up {w i : Nat} {hi : BitVec w} {lo b : Byte} (h : hi.extractLsb' i 8 = b) := extractByte_append_high (lo := lo) h
  have low {w : Nat} {hi : BitVec w} {lo : Byte} := extractByte_append_low (hi := hi) (lo := lo)
  exact ⟨up (up (up (up (up (up (up BitVec.extractLsb'_eq_self)))))), up (up (up (up (up (up low))))),
    up (up (up (up (up low)))), up (up (up (up low))), up (up (up low)), up (up low), up low, low⟩

/-- Settles O4: a word of the key is two of its bytes, and the bytes stand in their places. -/
theorem keyBytesMakeTheKeyWords : Obligations.KeyBytesMakeTheKeyWords := by
  intro b0 b1 b2 b3 b4 b5 b6 b7 key
  obtain ⟨h0, h1, h2, h3, h4, h5, h6, h7⟩ := extractByte_keyOfBytes b0 b1 b2 b3 b4 b5 b6 b7
  exact ⟨extractWord_of_bytes h6 h7, extractWord_of_bytes h4 h5, extractWord_of_bytes h2 h3, extractWord_of_bytes h0 h1,
    (keyWords_append key).symm, h0, h1, h2, h3, h4, h5, h6, h7⟩

end Sys2Proof.Machine
end

section
/-! What an instruction presents depends on its operands alone (R45, R83, R95). -/

namespace Sys2Proof.Machine

/-- UNPAD's status after a statement, by the capacity and the operands: Idle where the length is out of range, else Done. -/
theorem runStatement_up_up (msg : List Byte) (len : Nat) (s : State) :
    (runStatement .up (requestUp msg len) s).up =
      if s.maxLen < (portMessage s.maxLen msg len).len then .idle
      else .done (unpadResult (portMessage s.maxLen msg len)) := by
  rw [runStatement_up]
  split <;> rfl

/-- Settles O31: the status a statement leaves its unit in is a term of the operands, and for UNPAD of the capacity. -/
theorem resultsDependOnOperandsAlone : Obligations.ResultsDependOnOperandsAlone := by
  intro i s t s' t' hmax hs ht
  cases i with
  | ksched key =>
    rw [exec_ksched, runStatement_ks] at hs ht
    cases hs; cases ht; rfl
  | enc pt sk =>
    rw [exec_enc, runStatement_enc] at hs ht
    cases hs; cases ht; rfl
  | dec ct sk =>
    rw [exec_dec, runStatement_dec] at hs ht
    cases hs; cases ht; rfl
  | unpad msg len =>
    rw [exec_unpad] at hs ht
    cases hs; cases ht
    simp only [runStatement_up_up, hmax]

end Sys2Proof.Machine
end

section
/-! What a unit does after an accepted start, through any number of edges without a start of it and without reset: the
ports no longer reach its result (R43). -/

namespace Sys2Proof.Machine

/-- What every edge of a list keeps holds after the list. -/
theorem runEdges_keeps {P : State → Prop} {es : List (Ports × Completes)} {s : State}
    (hstep : ∀ e ∈ es, ∀ r, P r → P (clockEdge e.2 (drivePorts e.1 r))) (h : P s) : P (runEdges es s) := by
  induction es generalizing s with
  | nil => exact h
  | cons e es ih =>
    have hfirst : P (clockEdge e.2 (drivePorts e.1 s)) := hstep e List.mem_cons_self s h
    exact ih (fun e' he' => hstep e' (List.mem_cons_of_mem e he')) hfirst

/-- The unit works on the captured operands `o`, or has completed with their result. -/
def onOperands {Ops Res : Type} (f : Ops → Res) (o : Ops) (st : UnitStatus Ops Res) : Prop := st = .busy o ∨ st = .done (f o)

/-- An edge without a start keeps a unit on its operands, whatever its operand ports carry. -/
theorem onOperands_unitEdge {Ops Res : Type} {f : Ops → Res} {o : Ops} {st : UnitStatus Ops Res} (ports : Ops) (c : Bool)
    (h : onOperands f o st) : onOperands f o (unitEdge false ports c f st) := by
  rcases h with rfl | rfl
  · cases c
    · exact .inl rfl
    · exact .inr rfl
  · exact .inr rfl

section
variable {e : Ports × Completes} {s : State} (hr : e.1.rst = false)
include hr

theorem onOperands_clockEdge_ks {key : BitVec 64} (hstart : e.1.ksStart = false) (h : onOperands keySchedule key s.ks) :
    onOperands keySchedule key (clockEdge e.2 (drivePorts e.1 s)).ks := by
  simpa [clockEdge_ks, hr, hstart] using onOperands_unitEdge _ _ h

theorem onOperands_clockEdge_enc {o : CipherOps} (hstart : e.1.encStart = false) (h : onOperands encResult o s.enc) :
    onOperands encResult o (clockEdge e.2 (drivePorts e.1 s)).enc := by
  simpa [clockEdge_enc, hr, hstart] using onOperands_unitEdge _ _ h

theorem onOperands_clockEdge_dec {o : CipherOps} (hstart : e.1.decStart = false) (h : onOperands decResult o s.dec) :
    onOperands decResult o (clockEdge e.2 (drivePorts e.1 s)).dec := by
  simpa [clockEdge_dec, hr, hstart] using onOperands_unitEdge _ _ h

theorem onOperands_clockEdge_up {m : Message} (hstart : e.1.upStart = false) (h : onOperands unpadResult m s.up) :
    onOperands unpadResult m (clockEdge e.2 (drivePorts e.1 s)).up := by
  have hl : lengthFails (drivePorts e.1 s) = false := lengthFails_quiet hstart
  simpa [clockEdge_up, hr, hstart, hl] using onOperands_unitEdge _ _ h

end

/-- Settles O41: each edge keeps each unit on the operands it captured, so any list of edges does. -/
theorem capturedOperandsAreCopies : Obligations.CapturedOperandsAreCopies := by
  intro es s hr
  refine ⟨fun o ho hs => ?_, fun o ho hs => ?_, fun o ho hs => ?_, fun m hm hs => ?_⟩
  · exact runEdges_keeps (P := fun r => onOperands keySchedule o r.ks)
      (fun e he _ => onOperands_clockEdge_ks (hr e he) (hs e he)) (.inl ho)
  · exact runEdges_keeps (P := fun r => onOperands encResult o r.enc)
      (fun e he _ => onOperands_clockEdge_enc (hr e he) (hs e he)) (.inl ho)
  · exact runEdges_keeps (P := fun r => onOperands decResult o r.dec)
      (fun e he _ => onOperands_clockEdge_dec (hr e he) (hs e he)) (.inl ho)
  · exact runEdges_keeps (P := fun r => onOperands unpadResult m r.up)
      (fun e he _ => onOperands_clockEdge_up (hr e he) (hs e he)) (.inl hm)

end Sys2Proof.Machine
end

section
/-! Reads: the value a port carries or ReadNoValue, and the input ports left as the host drives them (R41, R42, R113,
R125, R131). -/

namespace Sys2Proof.Machine

/-- A read of a port that carries a value gives it to the host. -/
theorem hostRead_of_some {p : OutPort} {s : State} {v : PortValue} (h : portValue p s = some v) :
    hostRead p s = receive p v s := by
  rw [hostRead, h]

/-- A read of a port that carries none is ReadNoValue. -/
theorem hostRead_of_none {p : OutPort} {s : State} (h : portValue p s = none) :
    hostRead p s = raiseFault (.readNoValue (portUnit p) p) s := by
  rw [hostRead, h]

theorem resultOf_eq_none_iff {Ops Res : Type} (st : UnitStatus Ops Res) : resultOf st = none ↔ doneFlag st = false := by
  cases st <;> simp

/-- Is unit `u` Done? -/
def unitDone (u : UnitName) (s : State) : Bool :=
  match u with
  | .ks => doneFlag s.ks
  | .enc => doneFlag s.enc
  | .dec => doneFlag s.dec
  | .up => doneFlag s.up

/-- A result port has no value exactly where its unit is not Done (R30). -/
theorem portValue_eq_none_iff_of_mem {p : OutPort} {u : UnitName} (s : State) (h : p ∈ resultPorts u) :
    portValue p s = none ↔ unitDone u s = false := by
  cases u <;> simp only [resultPorts, List.mem_cons, List.not_mem_nil, or_false] at h
  case ks | enc | dec => subst h; simp [portValue, unitDone, resultOf_eq_none_iff]
  case up => rcases h with rfl | rfl <;> simp [portValue, unitDone, resultOf_eq_none_iff]

/-- A port has no value exactly where it is a result port of a unit that is not Done. -/
theorem portValue_eq_none_iff (p : OutPort) (s : State) :
    portValue p s = none ↔ ∃ u, p ∈ resultPorts u ∧ unitDone u s = false := by
  constructor
  · intro h
    have hmem : p ∈ resultPorts (portUnit p) := mem_resultPorts_of_portValue_none h
    exact ⟨portUnit p, hmem, (portValue_eq_none_iff_of_mem s hmem).mp h⟩
  · rintro ⟨u, hmem, hdone⟩
    exact (portValue_eq_none_iff_of_mem s hmem).mpr hdone

/-- Settles O43: the three clauses are a read that gives a value, the ports without one, and a read that is ReadNoValue. -/
theorem readsGiveTheResultOrReadNoValue : Obligations.ReadsGiveTheResultOrReadNoValue := by
  intro p s
  refine ⟨fun v => hostRead_of_some, ?_, fun h => ?_⟩
  · rw [portValue_eq_none_iff]
    refine exists_congr fun u => and_congr_right fun _ => ?_
    cases u <;> exact Iff.rfl
  · exact ⟨portUnit p, mem_resultPorts_of_portValue_none h, hostRead_of_none h⟩

@[simp] theorem hostRead_ports (p : OutPort) (s : State) : (hostRead p s).ports = s.ports := by
  rcases hostRead_cases p s with ⟨v, _, e⟩ | ⟨_, e⟩ <;> simp [e]

/-- Settles O44: an edge leaves the input ports, and a read either gives the host a value or records a fault. -/
theorem theBlockNeverWritesItsInputs : Obligations.TheBlockNeverWritesItsInputs :=
  fun c p s => ⟨clockEdge_ports c s, hostRead_ports p s⟩

end Sys2Proof.Machine
end

section
/-! Transactions as numbers: the decoder and the encoder undo each other, and only numbers with too many bits are
refused (R51, R52, R54 to R58, R60). -/

namespace Sys2Proof

/-! ### Two fields side by side in one number -/

/-- A field of `n` bits and a field of `m` bits above it take `n + m` bits. -/
theorem twoFields_lt {n m low high : Nat} (hl : low < 2 ^ n) (hh : high < 2 ^ m) : low + 2 ^ n * high < 2 ^ (n + m) := by
  calc low + 2 ^ n * high < 2 ^ n * (high + 1) := by rw [Nat.mul_add]; omega
    _ ≤ 2 ^ n * 2 ^ m := Nat.mul_le_mul_left _ hh
    _ = 2 ^ (n + m) := (pow_add 2 n m).symm

theorem twoFields_mod {n low : Nat} (high : Nat) (hl : low < 2 ^ n) : (low + 2 ^ n * high) % 2 ^ n = low := by
  rw [Nat.add_mul_mod_self_left, Nat.mod_eq_of_lt hl]

theorem twoFields_div {n low : Nat} (high : Nat) (hl : low < 2 ^ n) : (low + 2 ^ n * high) / 2 ^ n = high := by
  rw [Nat.add_mul_div_left _ _ (Nat.two_pow_pos n), Nat.div_eq_of_lt hl, Nat.zero_add]

/-- The upper part of a number of `n + m` bits has `m` bits. -/
theorem upperField_lt {n m v : Nat} (h : v < 2 ^ (n + m)) : v / 2 ^ n < 2 ^ m :=
  Nat.div_lt_of_lt_mul (by rwa [← pow_add])

/-! ### The operand bits -/

theorem wellFormed_unpad_iff (maxLen : Nat) (msg : List Byte) (len : Nat) :
    (Instr.unpad msg len).wellFormed maxLen = true ↔ msg.length = maxLen ∧ len < 2 ^ Machine.lenW maxLen := by
  simp [Instr.wellFormed, Instr.lanesOk, Instr.lenFits]

theorem packSka_lt (sk : SubkeyArray) : Machine.packSka sk < 2 ^ (16 * 22) := by
  have h := Machine.packLanes_lt 16 sk.toList
  rwa [Vector.length_toList] at h

/-- The operands of a well-formed transaction take the bits of its operation and no more (R52). -/
theorem encodeOperands_lt {maxLen : Nat} {i : Instr} (h : i.wellFormed maxLen = true) :
    encodeOperands maxLen i < 2 ^ operandBits maxLen (opIdOf i) := by
  cases i with
  | ksched key => exact key.isLt
  | enc pt sk | dec ct sk =>
    rw [opIdOf, operandBits]
    exact twoFields_lt (BitVec.isLt _) (packSka_lt sk)
  | unpad msg len =>
    obtain ⟨rfl, hlen⟩ := (wellFormed_unpad_iff _ _ _).mp h
    rw [opIdOf, operandBits, Nat.add_comm]
    exact twoFields_lt hlen (Machine.packLanes_lt 8 msg)

theorem ofNat_lowField {n : Nat} (x : BitVec n) (high : Nat) : BitVec.ofNat n (x.toNat + 2 ^ n * high) = x := by
  apply BitVec.eq_of_toNat_eq
  rw [BitVec.toNat_ofNat, twoFields_mod high x.isLt]

theorem decodeOperands_encodeOperands {maxLen : Nat} {i : Instr} (h : i.wellFormed maxLen = true) :
    decodeOperands maxLen (opIdOf i) (encodeOperands maxLen i) = i := by
  cases i with
  | ksched key => simp only [opIdOf, encodeOperands, decodeOperands, BitVec.ofNat_toNat, BitVec.setWidth_eq]
  | enc pt sk | dec ct sk =>
    simp only [opIdOf, encodeOperands, decodeOperands, ofNat_lowField, twoFields_div _ (BitVec.isLt _),
      Machine.unpackSka_packSka]
  | unpad msg len =>
    obtain ⟨rfl, hlen⟩ := (wellFormed_unpad_iff _ _ _).mp h
    simp only [opIdOf, encodeOperands, decodeOperands, Machine.lowBits, twoFields_mod _ hlen, twoFields_div _ hlen,
      Machine.unpackLanes_packLanes]

@[simp] theorem opIdOf_decodeOperands (maxLen : Nat) (op : OpId) (bits : Nat) :
    opIdOf (decodeOperands maxLen op bits) = op := by
  cases op <;> rfl

theorem wellFormed_decodeOperands (maxLen : Nat) (op : OpId) (bits : Nat) :
    (decodeOperands maxLen op bits).wellFormed maxLen = true := by
  cases op with
  | ksched | enc | dec => rfl
  | unpad => exact (wellFormed_unpad_iff _ _ _).mpr ⟨Machine.unpackLanes_length _ _ _, Machine.lowBits_lt _ _⟩

theorem encodeOperands_decodeOperands {maxLen bits : Nat} {op : OpId} (h : bits < 2 ^ operandBits maxLen op) :
    encodeOperands maxLen (decodeOperands maxLen op bits) = bits := by
  cases op with
  | ksched => exact Nat.mod_eq_of_lt h
  | enc | dec =>
    simp only [decodeOperands, encodeOperands, BitVec.toNat_ofNat, Machine.packSka_unpackSka,
      Nat.mod_eq_of_lt (upperField_lt h), Nat.mod_add_div]
  | unpad =>
    rw [operandBits, Nat.add_comm] at h
    simp only [decodeOperands, encodeOperands, Machine.lowBits, Machine.packLanes_unpackLanes,
      Nat.mod_eq_of_lt (upperField_lt h), Nat.mod_add_div]

/-! ### The whole number -/

theorem decode_eq_ok_iff (maxLen code : Nat) (i : Instr) :
    decode maxLen code = .ok i ↔
      code / 4 < 2 ^ operandBits maxLen (opIdOfBits (BitVec.ofNat 2 code)) ∧
        decodeOperands maxLen (opIdOfBits (BitVec.ofNat 2 code)) (code / 4) = i := by
  rcases decode_cases maxLen code with ⟨hfits, e⟩ | ⟨hover, e⟩ <;> simp [*]

/-- Settles O45: the identifier tells the operation, and the operand bits give the operands back. -/
theorem decodeOfEncodeIsTheTransaction : Obligations.DecodeOfEncodeIsTheTransaction := by
  intro maxLen i h
  obtain ⟨hop, hbits⟩ := Laws.opIdOfBits_encode (opIdOf i) (encodeOperands maxLen i)
  rw [encode, decode_eq_ok_iff, hop, hbits]
  exact ⟨encodeOperands_lt h, decodeOperands_encodeOperands h⟩

theorem opIdOf_of_decode {maxLen code : Nat} {i : Instr} (h : decode maxLen code = .ok i) :
    opIdOf i = opIdOfBits (BitVec.ofNat 2 code) := by
  obtain ⟨_, rfl⟩ := (decode_eq_ok_iff _ _ _).mp h
  exact opIdOf_decodeOperands _ _ _

/-- The identifier of the operation a number names is the number's two low bits (R51). -/
theorem bitsOfOpId_opIdOfBits (code : Nat) : (bitsOfOpId (opIdOfBits (BitVec.ofNat 2 code))).toNat = code % 4 := by
  rcases opIdOfBits_cases code with ⟨e, hmod⟩ | ⟨e, hmod⟩ | ⟨e, hmod⟩ | ⟨e, hmod⟩ <;> rw [e, hmod] <;> rfl

/-- Settles O46: the identifier is the two low bits, and encoding the decoded operands gives the operand bits. -/
theorem decodedNumbersAreEncodings : Obligations.DecodedNumbersAreEncodings := by
  intro maxLen code i h
  obtain ⟨hfits, rfl⟩ := (decode_eq_ok_iff _ _ _).mp h
  refine ⟨wellFormed_decodeOperands _ _ _, ?_⟩
  rw [encode, opIdOf_decodeOperands, bitsOfOpId_opIdOfBits, encodeOperands_decodeOperands hfits, Nat.mod_add_div]

theorem decode_eq_oversize_iff (maxLen code : Nat) :
    decode maxLen code = .error .oversize ↔ 2 ^ operandBits maxLen (opIdOfBits (BitVec.ofNat 2 code)) ≤ code / 4 := by
  rw [← Nat.not_lt]
  rcases decode_cases maxLen code with ⟨hfits, e⟩ | ⟨hover, e⟩ <;> simp [*]

/-- Settles O47: the decoder's only test is that of the size. -/
theorem onlyOversizeNumbersAreRejected : Obligations.OnlyOversizeNumbersAreRejected := decode_eq_oversize_iff

/-- Settles O48: the decoded operation is the one the identifier names, and its identifier is the two low bits. -/
theorem lowBitsSelectTheOperation : Obligations.LowBitsSelectTheOperation := by
  intro maxLen code i h
  have hlow : code % 4 = (bitsOfOpId (opIdOf i)).toNat := by rw [opIdOf_of_decode h, bitsOfOpId_opIdOfBits]
  cases i <;> exact hlow

theorem decode_of_eq_encode {maxLen code : Nat} {i : Instr} (h : i.wellFormed maxLen = true)
    (hcode : code = encode maxLen i) : decode maxLen code = .ok i := by
  rw [hcode, decodeOfEncodeIsTheTransaction maxLen i h]

/-- Settles O49: each word is the encoding of its transaction. -/
theorem writtenOutWordsDecode : Obligations.WrittenOutWordsDecode :=
  ⟨decode_of_eq_encode rfl (by decide), decode_of_eq_encode rfl (by decide), decode_of_eq_encode rfl (by decide),
    decode_of_eq_encode rfl (by decide)⟩

end Sys2Proof
end

section
/-! BLK32, SKA and MSG: words, lanes and bytes in their places, and the padded message (R35, R55, R56, R57, R66). -/

namespace Sys2Proof.Machine

/-! ### Blocks -/

/-- Byte `B[j]` of the block stands in bits `[31-8j : 24-8j]` (R55). -/
theorem extractByte_blockOfBytes (b0 b1 b2 b3 : Byte) :
    let blk := blockOfBytes b0 b1 b2 b3
    blk.extractLsb' 24 8 = b0 ∧ blk.extractLsb' 16 8 = b1 ∧ blk.extractLsb' 8 8 = b2 ∧ blk.extractLsb' 0 8 = b3 := by
  have up {w i : Nat} {hi : BitVec w} {lo b : Byte} (h : hi.extractLsb' i 8 = b) := extractByte_append_high (lo := lo) h
  have low {w : Nat} {hi : BitVec w} {lo : Byte} := extractByte_append_low (hi := hi) (lo := lo)
  exact ⟨up (up (up BitVec.extractLsb'_eq_self)), up (up low), up low, low⟩

@[simp] theorem bytesOfBlock_blockOfBytes (b0 b1 b2 b3 : Byte) :
    bytesOfBlock (blockOfBytes b0 b1 b2 b3) = [b0, b1, b2, b3] := by
  obtain ⟨h0, h1, h2, h3⟩ := extractByte_blockOfBytes b0 b1 b2 b3
  rw [bytesOfBlock, h0, h1, h2, h3]

/-- A block's two words put together are the block. -/
@[simp] theorem blockOfWords_blockP1_blockP2 (blk : BitVec 32) : blockOfWords (blockP1 blk) (blockP2 blk) = blk :=
  BitVec.extractLsb'_append_extractLsb'

@[simp] theorem blockP1_blockOfWords (p1 p2 : Word) : blockP1 (blockOfWords p1 p2) = p1 :=
  BitVec.extractLsb'_append_eq_left

@[simp] theorem blockP2_blockOfWords (p1 p2 : Word) : blockP2 (blockOfWords p1 p2) = p2 :=
  BitVec.extractLsb'_append_eq_right

/-- Each word of a block holds its high byte first (R35). -/
theorem bytesOfBlock_blockOfWords (p1 p2 : Word) :
    bytesOfBlock (blockOfWords p1 p2) =
      [p1.extractLsb' 8 8, p1.extractLsb' 0 8, p2.extractLsb' 8 8, p2.extractLsb' 0 8] := by
  have high {i : Nat} (h : 16 ≤ i) : (blockOfWords p1 p2).extractLsb' i 8 = p1.extractLsb' (i - 16) 8 :=
    BitVec.extractLsb'_append_eq_of_le h
  have low {i : Nat} (h : i + 8 ≤ 16) : (blockOfWords p1 p2).extractLsb' i 8 = p2.extractLsb' i 8 :=
    BitVec.extractLsb'_append_eq_of_add_le h
  rw [bytesOfBlock, high (by decide), high (by decide), low (by decide), low (by decide)]

/-- Settles O5: the bytes stand in their places, and a word is two of them. -/
theorem blockBytesMakeTheBlockWords : Obligations.BlockBytesMakeTheBlockWords := by
  intro b0 b1 b2 b3 blk
  obtain ⟨h0, h1, h2, h3⟩ := extractByte_blockOfBytes b0 b1 b2 b3
  exact ⟨extractWord_of_bytes h0 h1, extractWord_of_bytes h2 h3, blockOfWords_blockP1_blockP2 blk,
    bytesOfBlock_blockOfBytes b0 b1 b2 b3, bytesOfBlock_blockOfWords⟩

/-! ### Lanes -/

/-- Lane `j` of a flat vector stands in bits `[w*j + w - 1 : w*j]`: it is the lowest lane of what stands above the
first `j`. -/
theorem packLanes_lane (w : Nat) (xs : List (BitVec w)) (j : Nat) (h : j < xs.length) :
    packLanes w xs / 2 ^ (w * j) % 2 ^ w = xs[j].toNat := by
  induction xs generalizing j with
  | nil => cases h
  | cons x xs ih =>
    cases j with
    | zero => simp [packLanes]
    | succ j =>
      have habove : packLanes w (x :: xs) / 2 ^ w = packLanes w xs := twoFields_div _ x.isLt
      have hsplit : 2 ^ (w * (j + 1)) = 2 ^ w * 2 ^ (w * j) := by rw [← pow_add]; congr 1; ring
      rw [hsplit, ← Nat.div_div_eq_div_mul, habove]
      exact ih j (Nat.lt_of_succ_lt_succ h)

/-- Settles O6: the array's lanes are those of its list, and 22 lanes take 352 bits. -/
theorem flatSubkeysHoldTheirLanes : Obligations.FlatSubkeysHoldTheirLanes := by
  refine fun sk => ⟨Nat.div_eq_of_lt (packSka_lt sk), fun i hi => ?_⟩
  rw [packSka, packLanes_lane 16 sk.toList i (by simpa using hi), Vector.getElem_toList]

/-- A lane of a message port holds the list's byte, and 0 past the end of the list. -/
theorem lanesOf_getElem? {maxLen j : Nat} (msg : List Byte) (h : j < maxLen) :
    (lanesOf maxLen msg)[j]? = some (msg.getD j 0) := by
  rw [lanesOf, List.getD_eq_getElem?_getD]
  rcases Nat.lt_or_ge j msg.length with hj | hj
  · rw [List.getElem?_append_left (by simp; omega), List.getElem?_take_of_lt h, List.getElem?_eq_getElem hj,
      Option.getD_some]
  · rw [List.getElem?_append_right (by simp; omega), List.getElem?_eq_none hj, Option.getD_none,
      List.getElem?_replicate_of_lt (by simp; omega)]

/-- Settles O7: a flat message is its lanes, and a port's lanes are the list's bytes. -/
theorem messageLanesHoldTheirBytes : Obligations.MessageLanesHoldTheirBytes :=
  ⟨packLanes_lane 8, fun maxLen msg => ⟨lanesOf_length maxLen msg, fun _ => lanesOf_getElem? msg⟩⟩

/-! ### The padded message -/

theorem padFillCount_le (len : Nat) : padFillCount len ≤ 3 := by
  simp only [padFillCount, Config.blockBytes]; omega

theorem padMessage_length (msg : List Byte) :
    (padMessage msg).length = msg.length + 1 + padFillCount msg.length := by
  simp [padMessage]; omega

/-- A padded message is made of whole blocks (R66). -/
theorem padMessage_length_mod (msg : List Byte) : (padMessage msg).length % 4 = 0 := by
  rw [padMessage_length]
  simp only [padFillCount, Config.blockBytes]
  omega

/-- Settles O21: the fill is `padFillCount`, at most 3 bytes. -/
theorem padAlwaysAppendsTheMarker : Obligations.PadAlwaysAppendsTheMarker :=
  fun msg => ⟨padFillCount msg.length, padFillCount_le _, rfl, padMessage_length_mod msg⟩

end Sys2Proof.Machine
end

section
/-! A statement at the ports: what it may record, and the host's protocol that it stands for (R64). -/

namespace Sys2Proof.Machine

/-- Settles O28: by the frame of each instruction only UNPAD records a fault, and only LengthOutOfRange. -/
theorem statementsNeverMisuseThePorts : Obligations.StatementsNeverMisuseThePorts := by
  have silent {s t : State} (h : t.faults = s.faults) :
      ∃ fs, t.faults = s.faults ++ fs ∧ ∀ r ∈ fs, ∃ n, s.maxLen < n ∧ r.fault = .lengthOutOfRange n :=
    ⟨[], by simp [h]⟩
  intro i s t hx
  obtain ⟨_, _, _, hframe⟩ := instructionFrames i s t hx
  cases i with
  | ksched | enc | dec =>
    obtain ⟨_, _, _, hfaults, _⟩ := hframe
    exact silent hfaults
  | unpad =>
    obtain ⟨_, _, _, _, ⟨hfaults, _⟩ | ⟨_, _, n, hn, hfaults⟩⟩ := hframe
    · exact silent hfaults
    · exact ⟨_, hfaults, by simpa using hn⟩

/-! ### The completing edge of one unit -/

/-- Is unit `u` Busy? -/
def unitBusy (u : UnitName) (s : State) : Bool :=
  match u with
  | .ks => busyFlag s.ks
  | .enc => busyFlag s.enc
  | .dec => busyFlag s.dec
  | .up => busyFlag s.up

/-- A Busy unit without a start is Done after its completing edge. -/
theorem doneFlag_unitEdge_completes {Ops Res : Type} (ops : Ops) (f : Ops → Res) {st : UnitStatus Ops Res}
    (h : busyFlag st = true) : doneFlag (unitEdge false ops true f st) = true := by
  obtain ⟨o, rfl⟩ := (busyFlag_eq_true_iff st).mp h
  rfl

section
variable {s : State} (hq : portsQuiet s.ports) (u : UnitName)
include hq

theorem clockEdge_only_notBusy (h : unitBusy u s = false) : clockEdge (.only u) s = s := by
  cases u with
  | ks => rw [clockEdge_only_ks hq, unitEdge_notBusy _ _ _ h]; rfl
  | enc => rw [clockEdge_only_enc hq, unitEdge_notBusy _ _ _ h]; rfl
  | dec => rw [clockEdge_only_dec hq, unitEdge_notBusy _ _ _ h]; rfl
  | up => rw [clockEdge_only_up hq, unitEdge_notBusy _ _ _ h]; rfl

/-- After its completing edge a unit is not Busy. -/
theorem unitBusy_clockEdge_only : unitBusy u (clockEdge (.only u) s) = false := by
  cases u with
  | ks => rw [clockEdge_only_ks hq]; exact busyFlag_unitEdge_completes _ _ _
  | enc => rw [clockEdge_only_enc hq]; exact busyFlag_unitEdge_completes _ _ _
  | dec => rw [clockEdge_only_dec hq]; exact busyFlag_unitEdge_completes _ _ _
  | up => rw [clockEdge_only_up hq]; exact busyFlag_unitEdge_completes _ _ _

theorem unitDone_clockEdge_only (h : unitBusy u s = true) : unitDone u (clockEdge (.only u) s) = true := by
  cases u with
  | ks => rw [clockEdge_only_ks hq]; exact doneFlag_unitEdge_completes _ _ h
  | enc => rw [clockEdge_only_enc hq]; exact doneFlag_unitEdge_completes _ _ h
  | dec => rw [clockEdge_only_dec hq]; exact doneFlag_unitEdge_completes _ _ h
  | up => rw [clockEdge_only_up hq]; exact doneFlag_unitEdge_completes _ _ h

end

/-! ### The waits of a statement -/

theorem quiet_eq_self {p : Ports} (h : portsQuiet p) : p.quiet = p := h

/-- The host has asserted a start for one edge, `p` being on the ports before, and lowered it again. -/
def afterRequest (request : Ports → Ports) (p : Ports) (s : State) : State :=
  drivePorts (request p).quiet (clockEdge .nobody (drivePorts (request p) s))

theorem portsQuiet_afterRequest (request : Ports → Ports) (p : Ports) (s : State) :
    portsQuiet (afterRequest request p s).ports :=
  Ports.quiet_quiet (request p)

/-- From quiet ports the first edge of a statement is the unit's completing edge. -/
theorem runStatement_of_quiet {u : UnitName} (request : Ports → Ports) {s : State} (hq : portsQuiet s.ports) :
    runStatement u request s =
      (resultPorts u).foldl copyPort (clockEdge (.only u) (afterRequest request s.ports (clockEdge (.only u) s))) := by
  have hdrive : drivePorts s.ports.quiet s = s := by rw [quiet_eq_self hq]; rfl
  simp only [runStatement, afterRequest, hdrive, clockEdge_ports, drivePorts_ports]

/-- A statement begins after the unit's completing edge: taking that edge before it makes no difference. -/
theorem runStatement_waits {u : UnitName} (request : Ports → Ports) {s : State} (hq : portsQuiet s.ports) :
    runStatement u request s = runStatement u request (clockEdge (.only u) s) := by
  have hq' : portsQuiet (clockEdge (.only u) s).ports := by rwa [clockEdge_ports]
  rw [runStatement_of_quiet request hq, runStatement_of_quiet request hq', clockEdge_ports,
    clockEdge_only_notBusy hq' u (unitBusy_clockEdge_only hq u)]

/-- Settles O30: the statement on each unit waits for that unit. -/
theorem statementWaitsForABusyUnit : Obligations.StatementWaitsForABusyUnit := by
  intro s hq
  refine ⟨fun key => ?_, fun pt sk => ?_, fun ct sk => ?_, fun msg len => ?_⟩
  · rw [exec_ksched, exec_ksched, ← runStatement_waits _ hq]
  · rw [exec_enc, exec_enc, ← runStatement_waits _ hq]
  · rw [exec_dec, exec_dec, ← runStatement_waits _ hq]
  · rw [exec_unpad, exec_unpad, ← runStatement_waits _ hq]

/-! ### The protocol's events -/

theorem runEvents_append {es fs : List Event} {s t : State} (h : runEvents es s = some t) :
    runEvents (es ++ fs) s = runEvents fs t := by
  induction es generalizing s with
  | nil => cases h; rfl
  | cons e es ih =>
    rw [List.cons_append, runEvents] at *
    split at h
    · exact ih h
    · cases h
    · cases h

/-- At quiet ports the clock may go on for any number of edges at which nobody completes. -/
theorem runEvents_waits {s : State} (hq : portsQuiet s.ports) (k : Nat) :
    runEvents (List.replicate k (.edge .nobody)) s = some s := by
  induction k with
  | zero => rfl
  | succ k ih =>
    rw [List.replicate_succ]
    simp only [runEvents, runEvent, clockEdge_nobody_quiet hq, ih]

theorem runEvents_reads (ps : List OutPort) (s : State) :
    runEvents (ps.map .read) s = some (ps.foldl (fun s p => hostRead p s) s) := by
  induction ps generalizing s with
  | nil => rfl
  | cons p ps ih => exact ih _

@[simp] theorem unitDone_hostRead (u : UnitName) (p : OutPort) (s : State) :
    unitDone u (hostRead p s) = unitDone u s := by
  obtain ⟨hks, henc, hdec, hup⟩ := sameUnits_hostRead p s
  cases u <;> simp only [unitDone, *]

theorem copyPort_eq_hostRead {u : UnitName} {p : OutPort} {s : State} (hp : p ∈ resultPorts u)
    (h : unitDone u s = true) : copyPort s p = hostRead p s := by
  have hv : portValue p s ≠ none := by simp [portValue_eq_none_iff_of_mem s hp, h]
  obtain ⟨v, hv⟩ := Option.ne_none_iff_exists'.mp hv
  rw [copyPort, hostRead, hv]

/-- A Done unit's result ports are copied by reading them. -/
theorem foldl_copyPort_eq_reads {u : UnitName} {ps : List OutPort} {s : State} (hps : ∀ p ∈ ps, p ∈ resultPorts u)
    (h : unitDone u s = true) : ps.foldl copyPort s = ps.foldl (fun s p => hostRead p s) s := by
  induction ps generalizing s with
  | nil => rfl
  | cons p ps ih =>
    have hfirst : copyPort s p = hostRead p s := copyPort_eq_hostRead (hps p List.mem_cons_self) h
    rw [List.foldl_cons, List.foldl_cons, hfirst]
    exact ih (fun q hq => hps q (List.mem_cons_of_mem p hq)) (by rw [unitDone_hostRead, h])

/-- What the protocol does, however many edges `k` the unit takes: the request, the completing edge, and the reads. -/
theorem runEvents_protocolEvents (u : UnitName) (request : Ports → Ports) (p : Ports) (k : Nat) (s : State) :
    runEvents (protocolEvents u request p k) s =
      some ((resultPorts u).foldl (fun s p => hostRead p s) (clockEdge (.only u) (afterRequest request p s))) := by
  have hstart : runEvents [.drive (request p), .edge .nobody, .drive (request p).quiet] s =
    some (afterRequest request p s) := rfl
  have hwait := runEvents_waits (portsQuiet_afterRequest request p s) k
  rw [protocolEvents, List.append_assoc, List.append_assoc, runEvents_append hstart, runEvents_append hwait]
  exact runEvents_reads _ _

/-- A statement whose request the unit accepts is the protocol of R64. -/
theorem runEvents_protocol_eq_runStatement {u : UnitName} {request : Ports → Ports} {s : State} (k : Nat)
    (hq : portsQuiet s.ports) (hidle : unitBusy u s = false)
    (haccept : unitBusy u (afterRequest request s.ports.quiet s) = true) :
    runEvents (protocolEvents u request s.ports k) s = some (runStatement u request s) := by
  rw [quiet_eq_self hq] at haccept
  have hdone : unitDone u (clockEdge (.only u) (afterRequest request s.ports s)) = true :=
    unitDone_clockEdge_only (portsQuiet_afterRequest request s.ports s) u haccept
  rw [runEvents_protocolEvents, runStatement_of_quiet request hq, clockEdge_only_notBusy hq u hidle,
    foldl_copyPort_eq_reads (fun _ hp => hp) hdone]

/-- Settles O29: each unit accepts its request, UNPAD since the length is in range. -/
theorem statementIsThePortProtocol : Obligations.StatementIsThePortProtocol := by
  intro s k hq
  refine ⟨fun hb key => ⟨_, exec_ksched key s, ?_⟩, fun hb pt sk => ⟨_, exec_enc pt sk s, ?_⟩,
    fun hb ct sk => ⟨_, exec_dec ct sk s, ?_⟩, fun hb msg len hmsg hlen => ⟨_, exec_unpad msg len s, ?_⟩⟩
  · exact runEvents_protocol_eq_runStatement k hq hb (by rw [afterRequest, clockEdge_request_ks _ _ hb]; rfl)
  · exact runEvents_protocol_eq_runStatement k hq hb (by rw [afterRequest, clockEdge_request_enc _ _ _ hb]; rfl)
  · exact runEvents_protocol_eq_runStatement k hq hb (by rw [afterRequest, clockEdge_request_dec _ _ _ hb]; rfl)
  · have hrange : ¬ s.maxLen < (portMessage s.maxLen msg len).len := by
      rw [portMessage_self hmsg (hlen.trans_lt (maxLen_lt_lenW s.maxLen))]
      exact Nat.not_lt.mpr hlen
    exact runEvents_protocol_eq_runStatement k hq hb
      (by rw [afterRequest, clockEdge_request_up_accept _ _ _ hb hrange]; rfl)

end Sys2Proof.Machine
end

section
/-! What a step is, by the next event of the agenda (R52, R64, R116, R131). -/

namespace Sys2Proof.Machine

theorem runTransaction_of_ok {s : State} {code : Nat} {i : Instr} (h : decode s.maxLen code = .ok i) :
    runTransaction code s = exec i s := by
  rw [runTransaction, h]

theorem runTransaction_of_oversize {s : State} {code : Nat} (h : decode s.maxLen code = .error .oversize) :
    runTransaction code s = .refused .badTransaction := by
  rw [runTransaction, h]

/-- A step whose next event is a transaction that decodes runs its instruction. -/
theorem step_of_transaction {s : State} {code : Nat} {rest : List Event} {i : Instr}
    (ha : s.agenda = .transaction code :: rest) (h : decode s.maxLen code = .ok i) :
    step s = exec i (s.advance rest) := by
  rw [step_of_event ha]
  exact runTransaction_of_ok h

theorem decode_of_decodeTableWord {nbits w : Nat} {i : Instr} (h : decodeTableWord nbits w = some i) :
    decode Config.maxLen (w % 2 ^ nbits) = .ok i := by
  unfold decodeTableWord at h
  split at h
  · next hd => rw [hd, Option.some.inj h]
  · cases h

/-- Settles O50: a step is its next event, on the state with the event taken off and the step counted. -/
theorem stepRunsTheDecodedInstruction : Obligations.StepRunsTheDecodedInstruction := by
  refine ⟨fun s code rest i ha h => step_of_transaction ha h, fun s p rest ha => step_of_event ha,
    fun s c rest ha => step_of_event ha, fun s p rest ha => step_of_event ha, fun s ha => ?_, fun nbits w i h => ?_⟩
  · rw [step_of_empty ha, ← ha]; rfl
  · exact step_of_transaction (s := State.reset.withFetchWord nbits w) rfl (decode_of_decodeTableWord h)

/-- Settles O51: every event but a transaction has a next state, and a transaction has one if it decodes. -/
theorem stepsGoOnUnlessTheNumberIsNoTransaction : Obligations.StepsGoOnUnlessTheNumberIsNoTransaction := by
  intro s
  cases ha : s.agenda with
  | nil => exact .inl ⟨_, step_of_empty ha⟩
  | cons e rest =>
    cases e with
    | drive p => exact .inl ⟨_, step_of_event ha⟩
    | edge c => exact .inl ⟨_, step_of_event ha⟩
    | read p => exact .inl ⟨_, step_of_event ha⟩
    | transaction code =>
      rcases decode_cases s.maxLen code with ⟨_, hd⟩ | ⟨hover, hd⟩
      · rw [step_of_transaction ha hd]
        exact .inl (exec_next _ _)
      · refine .inr ⟨?_, code, rest, rfl, Nat.not_lt.mp hover⟩
        rw [step_of_event ha]
        exact runTransaction_of_oversize hd

end Sys2Proof.Machine
end

section
/-! The block cipher undoes itself: decryption gives back what was encrypted (R74, R89, R94). -/

namespace Sys2Proof.Machine

/-- Rotating right undoes rotating left (R74): bit `j` comes back from bit `j + n` while that is below 16, and from bit
`j + n - 16`, into which it was wrapped, otherwise. -/
theorem rotr16_rotl16 (x : Word) {n : Nat} (hn : n ≤ 15) : rotr16 (rotl16 x n) n = x := by
  apply BitVec.eq_of_getLsbD_eq
  intro j hj
  have hover : x.getLsbD (16 - n + (n + j)) = false := BitVec.getLsbD_of_ge x _ (by omega)
  rcases Nat.lt_or_ge (n + j) 16 with h | h
  · have hlow : j < 16 - n := by omega
    simp [rotr16, rotl16, hj, h, hlow, hover]
  · have hwrap : ¬ j < 16 - n := by omega
    have hplace : 16 - n + (j - (16 - n)) = j := by omega
    have hbelow : j - (16 - n) < n := by omega
    simp [rotr16, rotl16, hj, Nat.not_lt.mpr h, hwrap, hplace, hbelow, hover]

/-- Rotating right is rotating left by the rest of the word (R74). -/
theorem rotr16_eq_rotl16 (x : Word) {n : Nat} (hn : n ≤ 15) : rotr16 x n = rotl16 x (16 - n) := by
  rw [rotr16, rotl16, Nat.sub_sub_self (hn.trans (by decide)), BitVec.or_comm]

/-- Rotating left undoes rotating right (R74). -/
theorem rotl16_rotr16 (x : Word) {n : Nat} (hn : n ≤ 15) : rotl16 (rotr16 x n) n = x := by
  rcases Nat.eq_zero_or_pos n with rfl | hpos
  · simp [rotl16, rotr16, BitVec.ushiftRight_eq_zero]
  · have hrest : 16 - n ≤ 15 := by omega
    have hback : rotr16 (rotl16 x (16 - n)) (16 - n) = rotl16 (rotl16 x (16 - n)) n := by
      rw [rotr16_eq_rotl16 _ hrest, Nat.sub_sub_self (hn.trans (by decide))]
    rw [rotr16_eq_rotl16 x hn, ← hback, rotr16_rotl16 x hrest]

theorem xor16_xor16 (a b : Word) : xor16 (xor16 a b) b = a := by
  rw [xor16, xor16, BitVec.xor_assoc, BitVec.xor_self, BitVec.xor_zero]

theorem sub16_add16 (a b : Word) : sub16 (add16 a b) b = a := BitVec.add_sub_cancel a b

/-- The decryption round undoes the encryption round (R89). -/
theorem decRound_encRound (p : Halves) (k : Word) : decRound (encRound p k) k = p := by
  obtain ⟨p1, p2⟩ := p
  have hp2 (q : Word) : xor16 q (xor16 (rotl16 p2 Config.beta) q) = rotl16 p2 Config.beta := by
    rw [xor16, BitVec.xor_comm]; exact xor16_xor16 _ _
  simp only [decRound, encRound, hp2, rotr16_rotl16 _ (show Config.beta ≤ 15 by decide), xor16_xor16, sub16_add16,
    rotl16_rotr16 _ (show Config.alpha ≤ 15 by decide)]

/-- The rounds in decreasing order undo the rounds in increasing order, the last one first. -/
theorem decRounds_encRounds (ks : List Word) (p : Halves) : ks.reverse.foldl decRound (ks.foldl encRound p) = p := by
  induction ks generalizing p with
  | nil => rfl
  | cons k ks ih =>
    rw [List.foldl_cons, List.reverse_cons, List.foldl_append, ih]
    exact decRound_encRound p k

theorem halvesOfBlock_blockOfHalves (p : Halves) : halvesOfBlock (blockOfHalves p) = p := by
  rw [halvesOfBlock, blockOfHalves, blockP1_blockOfWords, blockP2_blockOfWords]

theorem blockOfHalves_halvesOfBlock (blk : BitVec 32) : blockOfHalves (halvesOfBlock blk) = blk :=
  blockOfWords_blockP1_blockP2 blk

/-- Decryption gives back the block that was encrypted, under every array (R94). -/
theorem decryptBlock_encryptBlock (blk : BitVec 32) (sk : SubkeyArray) : decryptBlock (encryptBlock blk sk) sk = blk := by
  rw [decryptBlock, encryptBlock, halvesOfBlock_blockOfHalves, decRounds_encRounds, blockOfHalves_halvesOfBlock]

end Sys2Proof.Machine
end

section
/-! A padded message and what Unpad makes of it (R101, R106). -/

namespace Sys2Proof.Machine

/-- Fill at the end of the message is removed (R101). -/
theorem stripFill_add {msg : List Byte} {n : Nat} (k : Nat) (h : ∀ j < k, msg[n + j]? = some Config.padFill) :
    stripFill msg (n + k) = stripFill msg n := by
  induction k with
  | zero => rfl
  | succ k ih =>
    have hlast : stripFill msg (n + k + 1) = stripFill msg (n + k) := if_pos (h k (Nat.lt_succ_self k))
    rw [← Nat.add_assoc, hlast, ih fun j hj => h j (Nat.lt_succ_of_lt hj)]

/-- A last byte that is no fill ends the loop. -/
theorem stripFill_succ_of_ne {msg : List Byte} {n : Nat} (h : msg[n]? ≠ some Config.padFill) :
    stripFill msg (n + 1) = n + 1 := if_neg h

theorem stripMarker_succ_of_eq {msg : List Byte} {n : Nat} (h : msg[n]? = some Config.padMarker) :
    stripMarker msg (n + 1) = n := if_pos h

/-- A marker and the fill behind it are removed, whatever stands before and behind them (R106). -/
theorem unpadLen_marker_fill (p rest : List Byte) (k : Nat) :
    unpadLen (p ++ Config.padMarker :: List.replicate k Config.padFill ++ rest) (p.length + 1 + k) = p.length := by
  generalize hmsg : p ++ Config.padMarker :: List.replicate k Config.padFill ++ rest = msg
  have hmarker : msg[p.length]? = some Config.padMarker := by simp [← hmsg]
  have hfill (j : Nat) (hj : j < k) : msg[p.length + 1 + j]? = some Config.padFill := by
    rw [← hmsg, List.append_assoc, Nat.add_assoc, List.getElem?_append_right (Nat.le_add_right _ _)]
    simp [Nat.add_comm 1 j, List.getElem?_append_left, hj]
  have hends : stripFill msg (p.length + 1) = p.length + 1 :=
    stripFill_succ_of_ne (by rw [hmarker]; decide)
  rw [unpadLen, stripFill_add k hfill, hends, stripMarker_succ_of_eq hmarker]

/-- Unpad of a padded message gives the length of the message, whatever stands behind it. -/
theorem unpadLen_padMessage (p rest : List Byte) :
    unpadLen (padMessage p ++ rest) (padMessage p).length = p.length := by
  rw [padMessage_length]
  exact unpadLen_marker_fill p rest (padFillCount p.length)

/-- A list that fits the port is the first of its lanes. -/
theorem lanesOf_eq_append {maxLen : Nat} {msg : List Byte} (h : msg.length ≤ maxLen) :
    lanesOf maxLen msg = msg ++ List.replicate (maxLen - msg.length) 0 := by
  rw [lanesOf, List.take_of_length_le h]

end Sys2Proof.Machine
end

section
/-! Messages as blocks (R66). -/

namespace Sys2Proof.Machine

/-- A block is the block of its own bytes (R55). -/
theorem blockOfBytes_bytes (blk : BitVec 32) :
    blockOfBytes (blk.extractLsb' 24 8) (blk.extractLsb' 16 8) (blk.extractLsb' 8 8) (blk.extractLsb' 0 8) = blk := by
  have h16 : blk.extractLsb' 24 8 ++ blk.extractLsb' 16 8 = blk.extractLsb' 16 16 :=
    BitVec.extractLsb'_append_extractLsb'_eq_extractLsb' rfl
  have h8 : blk.extractLsb' 16 16 ++ blk.extractLsb' 8 8 = blk.extractLsb' 8 24 :=
    BitVec.extractLsb'_append_extractLsb'_eq_extractLsb' rfl
  rw [blockOfBytes, h16, h8]
  exact BitVec.extractLsb'_append_extractLsb'

/-- A list with the bytes of `n + 1` blocks begins with those of one. -/
theorem exists_firstBlock {n : Nat} {msg : List Byte} (h : 4 * (n + 1) ≤ msg.length) :
    ∃ b0 b1 b2 b3 rest, msg = b0 :: b1 :: b2 :: b3 :: rest ∧ 4 * n ≤ rest.length := by
  match msg with
  | b0 :: b1 :: b2 :: b3 :: rest => exact ⟨b0, b1, b2, b3, rest, rfl, by simp at h; omega⟩
  | [] | [_] | [_, _] | [_, _, _] => simp only [List.length_cons, List.length_nil] at h; omega

/-- The bytes of a message's blocks are the bytes the blocks take. -/
theorem bytesOfBlocks_blocksOf {n : Nat} {msg : List Byte} (h : 4 * n ≤ msg.length) :
    bytesOfBlocks (blocksOf n msg) = msg.take (4 * n) := by
  induction n generalizing msg with
  | zero => rfl
  | succ n ih =>
    obtain ⟨b0, b1, b2, b3, rest, rfl, hrest⟩ := exists_firstBlock h
    rw [blocksOf, bytesOfBlocks, List.flatMap_cons, bytesOfBlock_blockOfBytes]
    exact congrArg ([b0, b1, b2, b3] ++ ·) (ih hrest)

@[simp] theorem bytesOfBlocks_length (blks : List (BitVec 32)) : (bytesOfBlocks blks).length = 4 * blks.length := by
  simp [bytesOfBlocks, bytesOfBlock, List.length_flatMap, Nat.mul_comm]

theorem blocksOf_length {n : Nat} {msg : List Byte} (h : 4 * n ≤ msg.length) : (blocksOf n msg).length = n := by
  have hbytes := congrArg List.length (bytesOfBlocks_blocksOf h)
  rw [bytesOfBlocks_length, List.length_take, Nat.min_eq_left h] at hbytes
  omega

/-- The blocks of a list of blocks' bytes are those blocks. -/
theorem blocksOf_bytesOfBlocks (blks : List (BitVec 32)) : blocksOf blks.length (bytesOfBlocks blks) = blks := by
  induction blks with
  | nil => rfl
  | cons blk blks ih =>
    calc blocksOf (blk :: blks).length (bytesOfBlocks (blk :: blks))
        = blockOfBytes (blk.extractLsb' 24 8) (blk.extractLsb' 16 8) (blk.extractLsb' 8 8) (blk.extractLsb' 0 8) ::
            blocksOf blks.length (bytesOfBlocks blks) := rfl
      _ = blk :: blks := by rw [blockOfBytes_bytes, ih]

/-- Bytes past the `n`-th block are not read. -/
theorem blocksOf_take {n : Nat} {msg : List Byte} (h : 4 * n ≤ msg.length) :
    blocksOf n (msg.take (4 * n)) = blocksOf n msg := by
  rw [← bytesOfBlocks_blocksOf h]
  conv => enter [1, 1]; rw [← blocksOf_length h]
  exact blocksOf_bytesOfBlocks _

end Sys2Proof.Machine
end

section
/-! The statements of a host program: each gives the value of its unit's function (R63, R64, R66, R136). -/

namespace Sys2Proof.Machine

theorem issue_of_next {i : Instr} {s t : State} (hwf : i.wellFormed s.maxLen = true) (hx : exec i s = .next t) :
    issue i s = some t := by
  rw [issue, if_pos hwf, hx]

theorem stmtKsched_eq (key : BitVec 64) (s : State) :
    stmtKsched key s = some (keySchedule key, runStatement .ks (requestKs key) s) := by
  rw [stmtKsched, issue_of_next rfl (exec_ksched key s), runStatement_ks]; rfl

theorem stmtEnc_eq (pt : BitVec 32) (sk : SubkeyArray) (s : State) :
    stmtEnc pt sk s = some (encryptBlock pt sk, runStatement .enc (requestEnc pt sk) s) := by
  rw [stmtEnc, issue_of_next rfl (exec_enc pt sk s), runStatement_enc]; rfl

theorem stmtDec_eq (ct : BitVec 32) (sk : SubkeyArray) (s : State) :
    stmtDec ct sk s = some (decryptBlock ct sk, runStatement .dec (requestDec ct sk) s) := by
  rw [stmtDec, issue_of_next rfl (exec_dec ct sk s), runStatement_dec]; rfl

section
variable (v : Nat) {block key : Operand} {blk : BitVec 32} {k : BitVec 64} {h : HostState}
  (hblock : blockOperand h block = some blk) (hkey : keyOperand h key = some k)
include hblock hkey

theorem runStmt_encK :
    runStmt (.encK v block key) h = some (assign v (.block (encryptBlock blk (keySchedule k)))
      { h with block := runStatement .enc (requestEnc blk (keySchedule k)) (runStatement .ks (requestKs k) h.block) }) := by
  simp only [runStmt, hblock, hkey, stmtKsched_eq, stmtEnc_eq, Option.bind_eq_bind, Option.bind_some]

theorem runStmt_decK :
    runStmt (.decK v block key) h = some (assign v (.block (decryptBlock blk (keySchedule k)))
      { h with block := runStatement .dec (requestDec blk (keySchedule k)) (runStatement .ks (requestKs k) h.block) }) := by
  simp only [runStmt, hblock, hkey, stmtKsched_eq, stmtDec_eq, Option.bind_eq_bind, Option.bind_some]

end

theorem operandValue_assign (x : Nat) (v : HostValue) (h : HostState) :
    operandValue (assign x v h) (.var x) = some v :=
  List.lookup_cons_self

@[simp] theorem assign_block (x : Nat) (v : HostValue) (h : HostState) : (assign x v h).block = h.block := rfl

/-- Settles O60: the array KSCHED presents is the one the cipher is run with, and KS keeps it. -/
theorem encKAndDecKUseTheKeysSubkeys : Obligations.EncKAndDecKUseTheKeysSubkeys := by
  intro v blk key h
  refine ⟨_, _, runStmt_encK v rfl rfl, operandValue_assign _ _ _, ?_, ?_, runStmt_decK v rfl rfl,
    operandValue_assign _ _ _, ?_, ?_⟩
  · rw [assign_block, runStatement_enc, runStatement_ks]
  · rw [assign_block, runStatement_enc]
  · rw [assign_block, runStatement_dec, runStatement_ks]
  · rw [assign_block, runStatement_dec]

/-- UNPAD of a length in range gives the lanes and the length of R101. -/
theorem stmtUnpad_eq (msg : List Byte) {len : Nat} {s : State} (hlen : len ≤ s.maxLen) :
    ∃ t, stmtUnpad msg len s = some (unpadResult { bytes := lanesOf s.maxLen msg, len := len }, t) := by
  have hlanes : (lanesOf s.maxLen msg).length = s.maxLen := lanesOf_length _ _
  have hwidth : len < 2 ^ lenW s.maxLen := hlen.trans_lt (maxLen_lt_lenW s.maxLen)
  have hwf := (wellFormed_unpad_iff s.maxLen (lanesOf s.maxLen msg) len).mpr ⟨hlanes, hwidth⟩
  rw [stmtUnpad, issue_of_next hwf (exec_unpad _ _ _), runStatement_up, portMessage_self hlanes hwidth,
    if_neg (Nat.not_lt.mpr hlen)]
  exact ⟨_, rfl⟩

/-! ### Messages -/

theorem blockCount_wholeBytes (len : Nat) : blockCount (wholeBytes len) = blockCount len :=
  Nat.mul_div_cancel_left _ (by decide)

section
variable (sk : SubkeyArray)

theorem encBlocks_eq (blks : List (BitVec 32)) (s : State) :
    ∃ t, encBlocks sk blks s = some (blks.map (encryptBlock · sk), t) ∧ t.maxLen = s.maxLen := by
  induction blks generalizing s with
  | nil => exact ⟨s, rfl, rfl⟩
  | cons blk blks ih =>
    obtain ⟨t, ht, hmax⟩ := ih (runStatement .enc (requestEnc blk sk) s)
    refine ⟨t, ?_, hmax.trans (runStatement_maxLen _ _ _)⟩
    rw [encBlocks, stmtEnc_eq, Option.bind_some, ht]; rfl

theorem decBlocks_eq (blks : List (BitVec 32)) (s : State) :
    ∃ t, decBlocks sk blks s = some (blks.map (decryptBlock · sk), t) ∧ t.maxLen = s.maxLen := by
  induction blks generalizing s with
  | nil => exact ⟨s, rfl, rfl⟩
  | cons blk blks ih =>
    obtain ⟨t, ht, hmax⟩ := ih (runStatement .dec (requestDec blk sk) s)
    refine ⟨t, ?_, hmax.trans (runStatement_maxLen _ _ _)⟩
    rw [decBlocks, stmtDec_eq, Option.bind_some, ht]; rfl

variable {msg : List Byte} {len : Nat} {s : State} (h : wholeBytes len ≤ msg.length)
include h

theorem encMessage_eq :
    ∃ t, encMessage msg len sk s =
        some (bytesOfBlocks ((blocksOf (blockCount len) msg).map (encryptBlock · sk)), t) ∧ t.maxLen = s.maxLen := by
  obtain ⟨t, ht, hmax⟩ := encBlocks_eq sk (blocksOf (blockCount len) msg) s
  exact ⟨t, by rw [encMessage, if_pos h, ht]; rfl, hmax⟩

theorem decMessage_eq (hfit : wholeBytes len ≤ s.maxLen) :
    ∃ t, decMessage msg len sk s =
      some (unpadResult
        { bytes := lanesOf s.maxLen (bytesOfBlocks ((blocksOf (blockCount len) msg).map (decryptBlock · sk))),
          len := wholeBytes len }, t) := by
  obtain ⟨r, hr, hmax⟩ := decBlocks_eq sk (blocksOf (blockCount len) msg) s
  rw [← hmax] at hfit ⊢
  obtain ⟨t, ht⟩ := stmtUnpad_eq (bytesOfBlocks ((blocksOf (blockCount len) msg).map (decryptBlock · sk))) hfit
  exact ⟨t, by rw [decMessage, if_pos h, hr, Option.bind_some, ht]⟩

/-! The whole blocks of a message are a message of their own, with the same blocks. -/

theorem blocksOf_wholeBytes :
    blocksOf (blockCount (wholeBytes len)) (msg.take (wholeBytes len)) = blocksOf (blockCount len) msg := by
  rw [blockCount_wholeBytes]
  exact blocksOf_take h

theorem wholeBytes_le_take : wholeBytes (wholeBytes len) ≤ (msg.take (wholeBytes len)).length := by
  rw [List.length_take, Nat.min_eq_left h, wholeBytes, blockCount_wholeBytes]; rfl

theorem encMessage_take : encMessage msg len sk s = encMessage (msg.take (wholeBytes len)) (wholeBytes len) sk s := by
  rw [encMessage, encMessage, if_pos h, if_pos (wholeBytes_le_take h), blocksOf_wholeBytes h]

theorem decMessage_take : decMessage msg len sk s = decMessage (msg.take (wholeBytes len)) (wholeBytes len) sk s := by
  have hwhole : wholeBytes (wholeBytes len) = wholeBytes len := congrArg (4 * ·) (blockCount_wholeBytes len)
  rw [decMessage, decMessage, if_pos h, if_pos (wholeBytes_le_take h), blocksOf_wholeBytes h, hwhole]

end

/-- DECMSG after ENCMSG is UNPAD of the message, for a message of whole blocks that fits UNPAD (R94). -/
theorem decMessage_encMessage (sk : SubkeyArray) {msg : List Byte} {s : State} (hblocks : msg.length % 4 = 0)
    (hfit : msg.length ≤ s.maxLen) :
    ∃ y s1 s2, encMessage msg msg.length sk s = some (y, s1) ∧
      decMessage y msg.length sk s1 =
        some (unpadResult { bytes := lanesOf s.maxLen msg, len := msg.length }, s2) := by
  have hwhole : wholeBytes msg.length = msg.length := Nat.mul_div_cancel' (Nat.dvd_of_mod_eq_zero hblocks)
  obtain ⟨blks, hblks⟩ : ∃ blks, blks = blocksOf (blockCount msg.length) msg := ⟨_, rfl⟩
  obtain ⟨cts, hcts⟩ : ∃ cts, cts = blks.map (encryptBlock · sk) := ⟨_, rfl⟩
  have hbytes : bytesOfBlocks blks = msg := by
    rw [hblks, bytesOfBlocks_blocksOf hwhole.le]
    exact List.take_of_length_le hwhole.ge
  have hcount : cts.length = blockCount msg.length := by
    rw [hcts, List.length_map, hblks, blocksOf_length hwhole.le]
  have hread : blocksOf (blockCount msg.length) (bytesOfBlocks cts) = cts := by rw [← hcount, blocksOf_bytesOfBlocks]
  have hback : cts.map (decryptBlock · sk) = blks := by
    simp [hcts, Function.comp_def, decryptBlock_encryptBlock]
  obtain ⟨s1, henc, hmax⟩ := encMessage_eq sk (s := s) hwhole.le
  rw [← hblks, ← hcts] at henc
  obtain ⟨s2, hdec⟩ := decMessage_eq sk (msg := bytesOfBlocks cts) (len := msg.length) (s := s1)
    (by rw [bytesOfBlocks_length, hcount]; rfl) (by rwa [hwhole, hmax])
  rw [hread, hback, hbytes, hmax, hwhole] at hdec
  exact ⟨_, s1, s2, henc, hdec⟩

/-- Settles O59: a padded message is made of whole blocks, so DECMSG leaves UNPAD with the padded message; and a trailing
group is in no block. -/
theorem messageRoundTrip : Obligations.MessageRoundTrip := by
  refine ⟨fun p sk s hfit => ?_, fun msg len sk s h => ⟨?_, fun hfit => ?_, encMessage_take sk h,
    decMessage_take sk h⟩⟩
  · obtain ⟨y, s1, s2, henc, hdec⟩ := decMessage_encMessage sk (padMessage_length_mod p) hfit
    have hlen : unpadLen (lanesOf s.maxLen (padMessage p)) (padMessage p).length = p.length := by
      rw [lanesOf_eq_append hfit, unpadLen_padMessage]
    refine ⟨y, s1, _, s2, henc, hdec, hlen, ?_⟩
    change List.take (unpadLen _ _) (lanesOf _ _) = p
    rw [hlen, lanesOf_eq_append hfit, padMessage, List.append_assoc, List.take_left]
  · obtain ⟨t, ht, _⟩ := encMessage_eq sk (s := s) h
    exact ⟨_, t, ht, by rw [bytesOfBlocks_length, List.length_map, blocksOf_length (n := blockCount len) h]; rfl⟩
  · obtain ⟨t, ht⟩ := decMessage_eq sk h hfit
    exact ⟨_, t, ht⟩

end Sys2Proof.Machine
end

section
/-! The word algebra: the rotations as integers and bit by bit (R68, R69), addition, subtraction, exclusive or and
zero-extension (R70 to R72, R11), and their six laws (R74). -/

namespace Sys2Proof.Machine

section
variable (x : Word) {n : Nat}

/-- The rotation as an integer (R68): the word moved up, or'ed with its high bits moved down, which stay below `2 ^ 16`. -/
theorem toNat_rotl16 (n : Nat) :
    (rotl16 x n).toNat = (x.toNat * 2 ^ n ||| x.toNat / 2 ^ (16 - n)) % 2 ^ 16 := by
  have hlow : x.toNat / 2 ^ (16 - n) < 2 ^ 16 := (Nat.div_le_self _ _).trans_lt x.isLt
  rw [rotl16, BitVec.toNat_or, BitVec.toNat_shiftLeft, BitVec.toNat_ushiftRight, Nat.shiftLeft_eq,
    Nat.shiftRight_eq_div_pow, Nat.or_mod_two_pow, Nat.mod_eq_of_lt hlow]

theorem toNat_rotr16 (hn : n ≤ 15) :
    (rotr16 x n).toNat = (x.toNat / 2 ^ n ||| x.toNat * 2 ^ (16 - n)) % 2 ^ 16 := by
  rw [rotr16_eq_rotl16 x hn, toNat_rotl16, Nat.sub_sub_self (hn.trans (by decide)), Nat.or_comm]

/-- Bit `j` comes from bit `j - n`, or from `n` places below the top when that wraps (R68). -/
theorem getLsbD_rotl16 (hn : n ≤ 16) {j : Nat} (hj : j < 16) :
    (rotl16 x n).getLsbD j = x.getLsbD ((j + 16 - n) % 16) := by
  rw [rotl16, BitVec.getLsbD_or, BitVec.getLsbD_shiftLeft, BitVec.getLsbD_ushiftRight]
  rcases Nat.lt_or_ge j n with h | h
  · have hwrap : (j + 16 - n) % 16 = 16 - n + j := by omega
    simp [h, hwrap]
  · have hplace : (j + 16 - n) % 16 = j - n := by omega
    have hover : x.getLsbD (16 - n + j) = false := BitVec.getLsbD_of_ge x _ (by omega)
    rw [hplace, hover]
    simp [hj, Nat.not_lt.mpr h]

theorem getLsbD_rotr16 (hn : n ≤ 15) {j : Nat} (hj : j < 16) :
    (rotr16 x n).getLsbD j = x.getLsbD ((j + n) % 16) := by
  have hplace : j + 16 - (16 - n) = j + n := by omega
  rw [rotr16_eq_rotl16 x hn, getLsbD_rotl16 x (Nat.sub_le 16 n) hj, hplace]

end

/-- Settles O1: the right rotation is the left rotation by the rest of the word, so both follow from the left one. -/
theorem rotationsMoveEveryBit : Obligations.RotationsMoveEveryBit := fun x n hn =>
  ⟨toNat_rotl16 x n, toNat_rotr16 x hn, fun _ hj =>
    ⟨getLsbD_rotl16 x (hn.trans (by decide)) hj, getLsbD_rotr16 x hn hj⟩⟩

theorem add16_sub16 (a b : Word) : add16 (sub16 a b) b = a := BitVec.sub_add_cancel a b

/-- Settles O3: each operation is undone by its inverse. -/
theorem wordAlgebraLaws : Obligations.WordAlgebraLaws := fun a b x _ hn =>
  ⟨rotr16_rotl16 x hn, rotl16_rotr16 x hn, sub16_add16 a b, add16_sub16 a b, xor16_xor16 a b,
    fun _ => rotr16_eq_rotl16 x hn⟩

theorem toNat_sub16 (a b : Word) : (sub16 a b).toNat = (a.toNat + 2 ^ 16 - b.toNat) % 2 ^ 16 := by
  have hb : b.toNat < 2 ^ 16 := b.isLt
  have hborrow : 2 ^ 16 - b.toNat + a.toNat = a.toNat + 2 ^ 16 - b.toNat := by omega
  rw [sub16, BitVec.toNat_sub, hborrow]

/-- The difference is the only word that gives `a` when `b` is added (R71). -/
theorem add16_eq_iff (a b d : Word) : add16 d b = a ↔ d = sub16 a b where
  mp h := by rw [← h, sub16_add16]
  mpr h := by rw [h, add16_sub16]

/-- Settles O2: the sums and differences as integers, and the laws that make the difference unique. -/
theorem additionAndSubtractionWrap : Obligations.AdditionAndSubtractionWrap :=
  ⟨fun a b => ⟨BitVec.toNat_add a b, toNat_sub16 a b, add16_eq_iff a b, fun _ _ => BitVec.getLsbD_xor⟩,
    fun _ hi => Nat.mod_eq_of_lt hi⟩

end Sys2Proof.Machine
end

section
/-! The key schedule is the recurrence (R77, R78, R80): its arrays satisfy it, and it fixes the whole array; and KSCHED presents
that array (R81, R82). -/

namespace Sys2Proof.Machine

/-! ### The working arrays satisfy the recurrence -/

section
variable (key : BitVec 64) {i n : Nat}

/-- The next iteration only appends to `sk`. -/
theorem scheduleAfter_succ_sk_getD (h : i < n + 1) :
    (scheduleAfter key (n + 1)).sk.getD i 0 = (scheduleAfter key n).sk.getD i 0 := by
  rw [scheduleAfter_succ]
  exact List.getD_append _ _ _ _ (by rwa [scheduleAfter_sk_length])

theorem scheduleAfter_succ_l_getD (h : i < n + 3) :
    (scheduleAfter key (n + 1)).l.getD i 0 = (scheduleAfter key n).l.getD i 0 := by
  rw [scheduleAfter_succ]
  exact List.getD_append _ _ _ _ (by rwa [scheduleAfter_l_length])

theorem scheduleAfter_seeds (n : Nat) :
    (scheduleAfter key n).sk.getD 0 0 = keyK0 key ∧ (scheduleAfter key n).l.getD 0 0 = keyK1 key ∧
      (scheduleAfter key n).l.getD 1 0 = keyK2 key ∧ (scheduleAfter key n).l.getD 2 0 = keyK3 key := by
  induction n with
  | zero => exact ⟨rfl, rfl, rfl, rfl⟩
  | succ n ih =>
    rwa [scheduleAfter_succ_sk_getD key (by omega), scheduleAfter_succ_l_getD key (by omega),
      scheduleAfter_succ_l_getD key (by omega), scheduleAfter_succ_l_getD key (by omega)]

/-- The entries that iteration `n` writes (R78). -/
theorem scheduleAfter_succ_last (n : Nat) :
    (scheduleAfter key (n + 1)).l.getD (n + 3) 0 =
        nextLookback n ((scheduleAfter key n).sk.getD n 0) ((scheduleAfter key n).l.getD n 0) ∧
      (scheduleAfter key (n + 1)).sk.getD (n + 1) 0 =
        nextSubkey ((scheduleAfter key n).sk.getD n 0) ((scheduleAfter key (n + 1)).l.getD (n + 3) 0) := by
  simp [scheduleAfter_succ, scheduleIter, scheduleAfter_l_length, scheduleAfter_sk_length]

/-- The entries of iteration `i` stay as they were written, and so do those it read. -/
theorem scheduleAfter_recurrence (h : i < n) :
    (scheduleAfter key n).l.getD (i + 3) 0 =
        nextLookback i ((scheduleAfter key n).sk.getD i 0) ((scheduleAfter key n).l.getD i 0) ∧
      (scheduleAfter key n).sk.getD (i + 1) 0 =
        nextSubkey ((scheduleAfter key n).sk.getD i 0) ((scheduleAfter key n).l.getD (i + 3) 0) := by
  induction n with
  | zero => exact absurd h (Nat.not_lt_zero i)
  | succ n ih =>
    rw [scheduleAfter_succ_sk_getD key h, scheduleAfter_succ_l_getD key (i := i) (by omega)]
    rcases Nat.lt_succ_iff_lt_or_eq.mp h with hlt | rfl
    · rw [scheduleAfter_succ_sk_getD key (by omega), scheduleAfter_succ_l_getD key (by omega)]
      exact ih hlt
    · exact scheduleAfter_succ_last key i

end

/-- The lookback array `l[0..23]` after the last iteration (R77). -/
def keyLookback (key : BitVec 64) : Vector Word 24 :=
  ⟨(scheduleAfter key Config.ksIterations).l.toArray, by simp [scheduleAfter_l_length, Config.ksIterations]⟩

theorem keyLookback_toList (key : BitVec 64) : (keyLookback key).toList = (scheduleAfter key 21).l :=
  toList_mk_toArray _ _

theorem getElem_eq_toList_getD {n i : Nat} (v : Vector Word n) (h : i < n) : v[i] = v.toList.getD i 0 := by
  rw [List.getD_eq_getElem?_getD, Vector.getElem?_toList, Vector.getElem?_eq_getElem h, Option.getD_some]

theorem isKeySchedule_keySchedule (key : BitVec 64) : IsKeySchedule key (keySchedule key) := by
  obtain ⟨hk0, hk1, hk2, hk3⟩ := scheduleAfter_seeds key 21
  refine ⟨keyLookback key, ?_⟩
  simp only [getElem_eq_toList_getD, keySchedule_toList, keyLookback_toList]
  exact ⟨hk0, hk1, hk2, hk3, fun i hi => scheduleAfter_recurrence key hi⟩

/-! ### The recurrence fixes the array -/

/-- Two arrays with the same seeds agree at every index: an iteration reads `sk[i]` and `l[i]` only, so the agreement to carry
is that of `sk[i]` and of the three lookback entries from `l[i]` on. -/
theorem IsKeySchedule.unique {key : BitVec 64} {sk sk' : SubkeyArray} (h : IsKeySchedule key sk) (h' : IsKeySchedule key sk') :
    sk = sk' := by
  obtain ⟨l, hk0, hk1, hk2, hk3, hiter⟩ := h
  obtain ⟨l', hk0', hk1', hk2', hk3', hiter'⟩ := h'
  have agree : ∀ (i : Nat) (_ : i < 22), sk[i] = sk'[i] ∧ l[i] = l'[i] ∧ l[i + 1] = l'[i + 1] ∧ l[i + 2] = l'[i + 2] := by
    intro i hi
    induction i with
    | zero => exact ⟨hk0.trans hk0'.symm, hk1.trans hk1'.symm, hk2.trans hk2'.symm, hk3.trans hk3'.symm⟩
    | succ i ih =>
      obtain ⟨hsk, hl, hl1, hl2⟩ := ih (by omega)
      obtain ⟨hnewL, hnewSk⟩ := hiter i (by omega)
      obtain ⟨hnewL', hnewSk'⟩ := hiter' i (by omega)
      have hl3 : l[i + 3] = l'[i + 3] := by rw [hnewL, hnewL', hsk, hl]
      exact ⟨by rw [hnewSk, hnewSk', hsk, hl3], hl1, hl2, hl3⟩
  exact Vector.ext fun i hi => (agree i hi).1

/-- Settles O9: the key schedule satisfies the recurrence, and two arrays that satisfy it are equal. -/
theorem keyScheduleIsTheRecurrence : Obligations.KeyScheduleIsTheRecurrence := fun key _ =>
  ⟨fun h => h.unique (isKeySchedule_keySchedule key), fun h => h ▸ isKeySchedule_keySchedule key⟩

/-- Settles O10: the seed of `sk` is the low word of the key. -/
theorem subkeyZeroIsTheLowKeyWord : Obligations.SubkeyZeroIsTheLowKeyWord := by
  intro key
  obtain ⟨_, hk0, _⟩ := isKeySchedule_keySchedule key
  exact hk0

/-! ### KSCHED -/

/-- Settles O22: a KSCHED statement leaves KS Done with the key schedule, which is the array of the recurrence. -/
theorem kschedPresentsTheSubkeys : Obligations.KschedPresentsTheSubkeys := by
  intro key s
  have hks : (runStatement .ks (requestKs key) s).ks = .done (keySchedule key) := by rw [runStatement_ks]
  have hfaults : (runStatement .ks (requestKs key) s).faults = s.faults := by rw [runStatement_ks]
  have hports := (flagsFollowTheStatus.1 (runStatement .ks (requestKs key) s)).1
  rw [hks] at hports
  obtain ⟨hbusy, hdone, hsk⟩ := hports
  exact ⟨_, keySchedule key, exec_ksched key s, isKeySchedule_keySchedule key, hks, hsk, hbusy, hdone, hfaults⟩

end Sys2Proof.Machine
end

section
/-! The block cipher (R87 to R94): the rounds are inverse both ways, the chains of 22 states of R90 and R91 are the same chain
read from its two ends, and that chain is the fold of the model; and ENC and DEC present its ends. -/

namespace Sys2Proof.Machine

/-! ### The rounds -/

/-- Settles O11: the rotation amounts are 7 and 2, and the second line uses the first line's result. -/
theorem roundFunctionsAsWritten : Obligations.RoundFunctionsAsWritten := fun _ _ _ => ⟨rfl, rfl⟩

theorem xor16_xor16_left (a b : Word) : xor16 (xor16 a b) a = b := by
  rw [xor16, xor16, BitVec.xor_comm a b, ← xor16, ← xor16, xor16_xor16]

/-- The encryption round undoes the decryption round (R89). -/
theorem encRound_decRound (p : Halves) (k : Word) : encRound (decRound p k) k = p := by
  simp only [decRound, encRound, rotr16_rotl16 _ (show Config.alpha ≤ 15 by decide), add16_sub16, xor16_xor16,
    rotl16_rotr16 _ (show Config.beta ≤ 15 by decide), xor16_xor16_left]

/-- Settles O12: each round undoes the other. -/
theorem roundsAreInverse : Obligations.RoundsAreInverse := fun p k => ⟨decRound_encRound p k, encRound_decRound p k⟩

/-- A round read backwards is the other round. -/
theorem eq_decRound_iff (p q : Halves) (k : Word) : p = decRound q k ↔ q = encRound p k where
  mp h := by rw [h, encRound_decRound]
  mpr h := by rw [h, decRound_encRound]

/-! ### Decrypting and encrypting a block -/

/-- The rounds in increasing order undo the rounds in decreasing order, the last one first. -/
theorem encRounds_decRounds (ks : List Word) (p : Halves) : ks.foldl encRound (ks.reverse.foldl decRound p) = p := by
  induction ks with
  | nil => rfl
  | cons k ks ih =>
    rw [List.reverse_cons, List.foldl_append, List.foldl_cons, List.foldl_cons, List.foldl_nil, encRound_decRound, ih]

/-- Encryption gives back the block that was decrypted, under every array (R94). -/
theorem encryptBlock_decryptBlock (blk : BitVec 32) (sk : SubkeyArray) : encryptBlock (decryptBlock blk sk) sk = blk := by
  rw [encryptBlock, decryptBlock, halvesOfBlock_blockOfHalves, encRounds_decRounds, blockOfHalves_halvesOfBlock]

/-- Settles O15: each of the two functions undoes the other. -/
theorem blockRoundTrip : Obligations.BlockRoundTrip := fun b sk =>
  ⟨decryptBlock_encryptBlock b sk, encryptBlock_decryptBlock b sk⟩

theorem eq_encryptBlock_iff (pt ct : BitVec 32) (sk : SubkeyArray) : ct = encryptBlock pt sk ↔ pt = decryptBlock ct sk where
  mp h := by rw [h, decryptBlock_encryptBlock]
  mpr h := by rw [h, encryptBlock_decryptBlock]

/-! ### The chain of states -/

/-- `st` is a chain of states that starts at `p`, one encryption round per word of `ks`. -/
def IsRoundChain {n : Nat} (ks : Vector Word n) (p : Halves) (st : Vector Halves (n + 1)) : Prop :=
  st[0] = p ∧ ∀ (i : Nat) (_ : i < n), st[i + 1] = encRound st[i] ks[i]

section
variable {n : Nat} (ks : Vector Word n) (p : Halves)

/-- The state before round `i`. -/
def stateBefore (i : Nat) : Halves := (ks.toList.take i).foldl encRound p

theorem stateBefore_zero : stateBefore ks p 0 = p := rfl

theorem stateBefore_succ {i : Nat} (h : i < n) : stateBefore ks p (i + 1) = encRound (stateBefore ks p i) ks[i] := by
  have htake : ks.toList.take (i + 1) = ks.toList.take i ++ [ks[i]] := by
    rw [List.take_succ_eq_append_getElem (by simpa using h), Vector.getElem_toList]
  rw [stateBefore, htake, List.foldl_append]; rfl

theorem stateBefore_length : stateBefore ks p n = ks.toList.foldl encRound p := by
  rw [stateBefore, List.take_of_length_le (by simp)]

/-- There is a chain from every state. -/
theorem isRoundChain_stateBefore : IsRoundChain ks p (Vector.ofFn fun i => stateBefore ks p i) := by
  refine ⟨by simp [stateBefore_zero], fun i hi => ?_⟩
  rw [Vector.getElem_ofFn, Vector.getElem_ofFn]
  exact stateBefore_succ ks p hi

variable {ks p}

/-- A chain has no choice at any index. -/
theorem IsRoundChain.getElem_eq {st : Vector Halves (n + 1)} (h : IsRoundChain ks p st) {i : Nat} (hi : i < n + 1) :
    st[i] = stateBefore ks p i := by
  obtain ⟨hstart, hround⟩ := h
  induction i with
  | zero => exact hstart
  | succ i ih => rw [hround i (by omega), ih (by omega), stateBefore_succ ks p (by omega)]

/-- The last state of a chain is the fold of the rounds, and there is a chain that ends in it. -/
theorem exists_chain_iff (q : Halves) :
    (∃ st : Vector Halves (n + 1), IsRoundChain ks p st ∧ st[n] = q) ↔ q = ks.toList.foldl encRound p := by
  rw [← stateBefore_length]
  constructor
  · rintro ⟨st, hchain, rfl⟩
    exact hchain.getElem_eq (Nat.lt_succ_self n)
  · rintro rfl
    exact ⟨_, isRoundChain_stateBefore ks p, Vector.getElem_ofFn _⟩

end

/-! ### The relations of R90 and R91 are the two ends of one chain -/

theorem halves_eq_iff (p : Halves) (x y : Word) : p = { p1 := x, p2 := y } ↔ p.p1 = x ∧ p.p2 = y := by
  cases p; simp

theorem eq_blockOfHalves_iff (blk : BitVec 32) (p : Halves) : blk = blockOfHalves p ↔ p = halvesOfBlock blk where
  mp h := by rw [h, halvesOfBlock_blockOfHalves]
  mpr h := by rw [h, blockOfHalves_halvesOfBlock]

/-- The two lines of R87 say that the next state is the round of this one. -/
theorem encRound_lines_iff (p q : Halves) (k : Word) :
    (q.p1 = add16 (rotr16 p.p1 7) p.p2 ^^^ k ∧ q.p2 = rotl16 p.p2 2 ^^^ q.p1) ↔ q = encRound p k := by
  rw [encRound, halves_eq_iff]
  exact and_congr_right fun h => by rw [h]; rfl

/-- The lines of R88 say the same as those of R87: the state before is the decryption round of the next one. -/
theorem decRound_lines_iff (p q : Halves) (k : Word) :
    (p.p2 = rotr16 (q.p1 ^^^ q.p2) 2 ∧ p.p1 = rotl16 (sub16 (q.p1 ^^^ k) p.p2) 7) ↔ q = encRound p k := by
  rw [← eq_decRound_iff, decRound, halves_eq_iff, and_comm]
  exact and_congr_left fun h => by rw [h]; rfl

section
variable (pt ct : BitVec 32) (sk : SubkeyArray)

theorem isEncryption_iff_chain :
    IsEncryption pt sk ct ↔ ∃ st : Vector Halves 23, IsRoundChain sk (halvesOfBlock pt) st ∧ st[22] = halvesOfBlock ct := by
  refine exists_congr fun st => Iff.trans (and_congr_right' ?_) and_assoc.symm
  exact and_congr (forall₂_congr fun i _ => encRound_lines_iff st[i] st[i + 1] sk[i]) (eq_blockOfHalves_iff ct st[22])

/-- The chain of R91 is the same one: it is only told from its last state down. -/
theorem isDecryption_iff_chain :
    IsDecryption ct sk pt ↔ ∃ st : Vector Halves 23, IsRoundChain sk (halvesOfBlock pt) st ∧ st[22] = halvesOfBlock ct := by
  refine exists_congr fun st => Iff.trans (and_congr_right' ?_) (and_comm.trans (and_congr_left' and_comm))
  exact and_congr (forall₂_congr fun i _ => decRound_lines_iff st[i] st[i + 1] sk[i]) (eq_blockOfHalves_iff pt st[0])

end

/-- Settles O13: the chain of R90 exists, and its last state is the fold of the rounds. -/
theorem encryptBlockIsTheForwardRounds : Obligations.EncryptBlockIsTheForwardRounds := by
  intro pt sk ct
  rw [isEncryption_iff_chain, exists_chain_iff, encryptBlock, eq_blockOfHalves_iff, eq_comm]

/-- Settles O14: read from its other end, the chain of R91 is that of R90, and decrypting inverts encrypting. -/
theorem decryptBlockIsTheInverseRounds : Obligations.DecryptBlockIsTheInverseRounds := fun ct sk pt =>
  calc IsDecryption ct sk pt
    _ ↔ IsEncryption pt sk ct := (isDecryption_iff_chain pt ct sk).trans (isEncryption_iff_chain pt ct sk).symm
    _ ↔ ct = encryptBlock pt sk := encryptBlockIsTheForwardRounds pt sk ct
    _ ↔ pt = decryptBlock ct sk := eq_encryptBlock_iff pt ct sk

/-! ### ENC and DEC -/

/-- Settles O23: an ENC statement leaves ENC Done with the ciphertext, which is the end of the chain of R90. -/
theorem encPresentsTheCiphertext : Obligations.EncPresentsTheCiphertext := by
  intro pt sk s
  have henc : (runStatement .enc (requestEnc pt sk) s).enc = .done (encryptBlock pt sk) := by rw [runStatement_enc]
  have hfaults : (runStatement .enc (requestEnc pt sk) s).faults = s.faults := by rw [runStatement_enc]
  have hports := (flagsFollowTheStatus.1 (runStatement .enc (requestEnc pt sk) s)).2.1
  rw [henc] at hports
  obtain ⟨hbusy, hdone, hct⟩ := hports
  exact ⟨_, encryptBlock pt sk, exec_enc pt sk s, (encryptBlockIsTheForwardRounds pt sk _).mpr rfl, henc, hct, hbusy,
    hdone, hfaults⟩

/-- Settles O24: a DEC statement leaves DEC Done with the plaintext, which is the end of the chain of R91. -/
theorem decPresentsThePlaintext : Obligations.DecPresentsThePlaintext := by
  intro ct sk s
  have hdec : (runStatement .dec (requestDec ct sk) s).dec = .done (decryptBlock ct sk) := by rw [runStatement_dec]
  have hfaults : (runStatement .dec (requestDec ct sk) s).faults = s.faults := by rw [runStatement_dec]
  have hports := (flagsFollowTheStatus.1 (runStatement .dec (requestDec ct sk) s)).2.2.1
  rw [hdec] at hports
  obtain ⟨hbusy, hdone, hpt⟩ := hports
  exact ⟨_, decryptBlock ct sk, exec_dec ct sk s, (decryptBlockIsTheInverseRounds ct sk _).mpr rfl, hdec, hpt, hbusy,
    hdone, hfaults⟩

end Sys2Proof.Machine
end

section
/-! Padding removal (R100 to R108): Unpad's length, its bytes and its corner cases; and what UNPAD presents or refuses. -/

namespace Sys2Proof.Machine

/-! ### The loop of R101: where it stops -/

theorem stripFill_succ_of_eq {msg : List Byte} {n : Nat} (h : msg[n]? = some Config.padFill) :
    stripFill msg (n + 1) = stripFill msg n := if_pos h

/-- The loop removes nothing but fill. -/
theorem getElem?_of_stripFill_le {msg : List Byte} {len j : Nat} (hle : stripFill msg len ≤ j) (hj : j < len) :
    msg[j]? = some Config.padFill := by
  induction len with
  | zero => omega
  | succ n ih =>
    by_cases hfill : msg[n]? = some Config.padFill
    · rw [stripFill_succ_of_eq hfill] at hle
      obtain hlt | rfl := Nat.lt_succ_iff_lt_or_eq.mp hj
      · exact ih hle hlt
      · exact hfill
    · rw [stripFill_succ_of_ne hfill] at hle
      omega

/-- The loop does not stop behind a byte of fill. -/
theorem getElem?_stripFill_pred_ne {msg : List Byte} {len : Nat} (hpos : 0 < stripFill msg len) :
    msg[stripFill msg len - 1]? ≠ some Config.padFill := by
  induction len with
  | zero => cases hpos
  | succ n ih =>
    by_cases hfill : msg[n]? = some Config.padFill
    · rw [stripFill_succ_of_eq hfill] at hpos ⊢
      exact ih hpos
    · rwa [stripFill_succ_of_ne hfill]

/-- With no fill at its end a message is not shortened by the loop. -/
theorem stripFill_self {msg : List Byte} {m : Nat} (h : 0 < m → msg[m - 1]? ≠ some Config.padFill) :
    stripFill msg m = m := by
  cases m with
  | zero => rfl
  | succ m => exact stripFill_succ_of_ne (h m.succ_pos)

/-- The loop stops in one place alone: where all behind is fill and the byte before is not. -/
theorem stripFill_eq_of_fill {msg : List Byte} {len m : Nat} (hm : m ≤ len)
    (hfill : ∀ j, m ≤ j → j < len → msg[j]? = some Config.padFill)
    (hlast : 0 < m → msg[m - 1]? ≠ some Config.padFill) : stripFill msg len = m := by
  obtain ⟨k, rfl⟩ := Nat.exists_eq_add_of_le hm
  rw [stripFill_add k fun j hj => hfill (m + j) (by omega) (by omega), stripFill_self hlast]

/-- The last test of R101, by the byte before the length. -/
theorem stripMarker_eq_ite (msg : List Byte) (m : Nat) :
    stripMarker msg m = if 0 < m ∧ msg[m - 1]? = some Config.padMarker then m - 1 else m := by
  cases m with
  | zero => rfl
  | succ m => simp [stripMarker]

/-! ### Unpad is R101's relation -/

theorem isUnpadLength_unpadLen (msg : List Byte) (len : Nat) : IsUnpadLength msg len (unpadLen msg len) :=
  ⟨stripFill msg len, stripFill_le msg len, fun _ => getElem?_of_stripFill_le, getElem?_stripFill_pred_ne,
    stripMarker_eq_ite msg _⟩

theorem eq_unpadLen_of_isUnpadLength {msg : List Byte} {len n : Nat} (h : IsUnpadLength msg len n) :
    n = unpadLen msg len := by
  obtain ⟨m, hm, hfill, hlast, hn⟩ := h
  rw [unpadLen, stripFill_eq_of_fill hm hfill hlast, stripMarker_eq_ite]
  exact hn

/-- Settles O16: Unpad's length satisfies the relation, and the relation has one length. -/
theorem unpadRemovesFillThenOneMarker : Obligations.UnpadRemovesFillThenOneMarker := fun msg len _ _ =>
  ⟨eq_unpadLen_of_isUnpadLength, fun h => h ▸ isUnpadLength_unpadLen msg len⟩

/-! ### Which bytes are read, and which are removed -/

/-- The relation speaks of the bytes below the length alone. -/
theorem IsUnpadLength.congr {msg other : List Byte} {len n : Nat} (heq : ∀ j, j < len → msg[j]? = other[j]?)
    (h : IsUnpadLength msg len n) : IsUnpadLength other len n := by
  obtain ⟨m, hm, hfill, hlast, hn⟩ := h
  have hpred (hpos : 0 < m) : msg[m - 1]? = other[m - 1]? := heq (m - 1) (by omega)
  refine ⟨m, hm, fun j hmj hj => ?_, fun hpos => ?_, ?_⟩
  · rw [← heq j hj]
    exact hfill j hmj hj
  · rw [← hpred hpos]
    exact hlast hpos
  · exact hn.trans (if_congr (and_congr_right fun hpos => by rw [hpred hpos]) rfl rfl)

/-- Settles O17: no loop is run on the empty message, and messages that agree below the length have the same length after
Unpad. -/
theorem unpadReadsOnlyTheMessage : Obligations.UnpadReadsOnlyTheMessage :=
  ⟨fun _ => rfl, fun len msg _ heq => eq_unpadLen_of_isUnpadLength ((isUnpadLength_unpadLen msg len).congr heq)⟩

/-- Settles O20: a removed byte was removed by the loop, or by the last test, which removes the one at the new length. -/
theorem removedBytesAreFillOrTheMarker : Obligations.RemovedBytesAreFillOrTheMarker := by
  intro msg len _
  refine ⟨unpadLen_le msg len, fun j hj hlen => ?_⟩
  obtain ⟨m, hm, hfill, -, hn⟩ := isUnpadLength_unpadLen msg len
  by_cases hloop : m ≤ j
  · exact .inl (hfill j hloop hlen)
  · split at hn
    case isTrue hmark =>
      have hnew : j = unpadLen msg len := by omega
      exact .inr ⟨hnew, by rw [hnew, hn]; exact hmark.2⟩
    case isFalse => omega

/-! ### Messages with and without a marker -/

/-- Settles O18: the loop removes the fill and stops at the marker. -/
theorem unpadRecoversThePaddedMessage : Obligations.UnpadRecoversThePaddedMessage := unpadLen_marker_fill

/-- A last byte that is neither fill nor marker is kept, and the fill behind it is removed (R107). -/
theorem unpadLen_data_fill (p : List Byte) {b : Byte} (k : Nat) (hfill : b ≠ Config.padFill)
    (hmarker : b ≠ Config.padMarker) :
    unpadLen (p ++ b :: List.replicate k Config.padFill) (p.length + 1 + k) = p.length + 1 := by
  have hb : (p ++ b :: List.replicate k Config.padFill)[p.length]? = some b := by simp
  refine (eq_unpadLen_of_isUnpadLength ⟨p.length + 1, Nat.le_add_right _ k, fun j hle hj => ?_, fun _ => ?_, ?_⟩).symm
  · obtain ⟨i, rfl⟩ := Nat.exists_eq_add_of_le hle
    rw [Nat.add_assoc, List.getElem?_append_right (Nat.le_add_right _ _), Nat.add_sub_cancel_left, Nat.add_comm 1 i,
      List.getElem?_cons_succ, List.getElem?_replicate_of_lt (Nat.lt_of_add_lt_add_left hj)]
    rfl
  · rw [Nat.add_sub_cancel, hb]
    exact fun h => hfill (Option.some.inj h)
  · rw [Nat.add_sub_cancel, hb]
    exact (if_neg fun h => hmarker (Option.some.inj h.2)).symm

/-- Settles O19: the loop asks for no marker, and the last test does not ask what the marker stands for. -/
theorem unpadIsUnconditional : Obligations.UnpadIsUnconditional := by
  intro p b k hfill hmarker
  refine ⟨unpadLen_data_fill p k hfill hmarker, ?_⟩
  have hdata := unpadLen_marker_fill p [] 0
  rwa [List.append_nil] at hdata

/-! ### UNPAD -/

/-- Settles O25: an UNPAD statement with a length in range leaves UNPAD Done with the bytes and Unpad's length. -/
theorem unpadPresentsTheTrimmedMessage : Obligations.UnpadPresentsTheTrimmedMessage := by
  intro msg len s hmsg hlen
  have hself := portMessage_self hmsg (hlen.trans_lt (maxLen_lt_lenW s.maxLen))
  have hrange : ¬ s.maxLen < (portMessage s.maxLen msg len).len := by
    rw [hself]
    exact Nat.not_lt.mpr hlen
  have hup : (runStatement .up (requestUp msg len) s).up = .done { bytes := msg, len := unpadLen msg len } := by
    rw [runStatement_up_up, if_neg hrange, hself]
    rfl
  have hfaults : (runStatement .up (requestUp msg len) s).faults = s.faults := by
    rw [runStatement_up, if_neg hrange]
  obtain ⟨-, -, -, hports⟩ := flagsFollowTheStatus.1 (runStatement .up (requestUp msg len) s)
  rw [hup] at hports
  obtain ⟨hbusy, hdone, hbytes, hlength⟩ := hports
  exact ⟨_, unpadLen msg len, exec_unpad msg len s, isUnpadLength_unpadLen msg len, hup, hbytes, hlength, hbusy, hdone,
    hfaults⟩

/-- Settles O26: an UNPAD statement with a length out of range is turned away at the accepting edge. -/
theorem unpadRefusesLengthOutOfRange : Obligations.UnpadRefusesLengthOutOfRange := by
  intro msg len s hmsg hrange hwidth
  have hrun := runStatement_up msg len s
  rw [portMessage_self hmsg hwidth, if_pos hrange] at hrun
  have hup : (runStatement .up (requestUp msg len) s).up = .idle := by rw [hrun]
  obtain ⟨-, -, -, hports⟩ := flagsFollowTheStatus.1 (runStatement .up (requestUp msg len) s)
  rw [hup] at hports
  obtain ⟨-, -, hbytes, hlength⟩ := hports
  exact ⟨_, exec_unpad msg len s, hup, by rw [hrun], hbytes, hlength, by rw [hrun]⟩

end Sys2Proof.Machine
end

section
/-! Faults at an edge (R113, R114, R116): a start at a Busy unit leaves it, and what one edge records, in unit order. -/

namespace Sys2Proof.Machine

/-! ### A start at a Busy unit -/

/-- A Busy unit with its start asserted stays as it is, whatever the schedule says (R114, R116 a). -/
theorem unitEdge_start_of_busy {Ops Res : Type} (ops : Ops) (c : Bool) (f : Ops → Res) {st : UnitStatus Ops Res}
    (h : busyFlag st = true) : unitEdge true ops c f st = st := by
  obtain ⟨o, rfl⟩ := (busyFlag_eq_true_iff st).mp h
  exact unitEdge_startWhileBusy ops f c o

/-- The length is checked only where the start would be accepted: not at a Busy UNPAD (R116). -/
theorem lengthFails_of_busy {s : State} (h : busyFlag s.up = true) : lengthFails s = false := by
  simp [lengthFails, h]

/-- Settles O35: each unit's status after the edge is that of `unitEdge` with a start; UNPAD's length check does not fail
while it is Busy. -/
theorem startWhileBusyLeavesTheUnit : Obligations.StartWhileBusyLeavesTheUnit := by
  intro c s hr
  refine ⟨fun hs hb => ?_, fun hs hb => ?_, fun hs hb => ?_, fun hs hb => ?_⟩
  · simp [clockEdge_ks, hr, hs, unitEdge_start_of_busy _ _ _ hb]
  · simp [clockEdge_enc, hr, hs, unitEdge_start_of_busy _ _ _ hb]
  · simp [clockEdge_dec, hr, hs, unitEdge_start_of_busy _ _ _ hb]
  · simp [clockEdge_up, hr, hs, lengthFails_of_busy hb, unitEdge_start_of_busy _ _ _ hb]

/-! ### The faults of one edge -/

/-- A table of checks and what each records: the first row's entry if its check holds, then those of the rows after it. -/
theorem map_filter_fst_cons {α β : Type} (g : Bool × α → β) (b : Bool) (a : α) (rows : List (Bool × α)) :
    (((b, a) :: rows).filter (·.1)).map g = (if b then [g (b, a)] else []) ++ (rows.filter (·.1)).map g := by
  cases b <;> rfl

/-- UNPAD records StartWhileBusy or LengthOutOfRange, never both, so either may be checked first. -/
theorem upFaults_eq_append (s : State) (outOfRange whileBusy : FaultRecord) :
    (if lengthFails s then [outOfRange] else if s.ports.upStart && busyFlag s.up then [whileBusy] else []) =
      (if s.ports.upStart && busyFlag s.up then [whileBusy] else []) ++ if lengthFails s then [outOfRange] else [] := by
  cases hb : busyFlag s.up with
  | true => simp [lengthFails_of_busy hb]
  | false => simp

/-- Settles O36: the record of `clockEdge_faults`, row by row; an edge of the cycle-level form is `clockEdge` by definition. -/
theorem edgeFaultsInUnitOrder : Obligations.EdgeFaultsInUnitOrder := by
  refine ⟨fun c s hr => ?_, fun lat p c => rfl⟩
  rw [clockEdge_faults c hr, upFaults_eq_append]
  simp only [map_filter_fst_cons, List.filter_nil, List.map_nil, List.append_nil]
  rfl

end Sys2Proof.Machine
end

section
/-! Reset and launch (R32, R33, R125, R126): every unit is Idle, so every flag is 0 and no result port has a value. -/

namespace Sys2Proof.Machine

/-- Every unit is Idle. -/
def unitsIdle (s : State) : Prop := s.ks = .idle ∧ s.enc = .idle ∧ s.dec = .idle ∧ s.up = .idle

theorem unitsIdle_resetUnits (s : State) : unitsIdle (resetUnits s) := ⟨rfl, rfl, rfl, rfl⟩

theorem unitsIdle_reset : unitsIdle State.reset := ⟨rfl, rfl, rfl, rfl⟩

/-- Settles O32: an edge with `rst = 1` is `resetUnits`, and a block whose units are all Idle shows nothing on its ports. -/
theorem resetMakesEveryUnitIdle : Obligations.ResetMakesEveryUnitIdle := by
  refine ⟨fun c s hr => clockEdge_of_rst c hr, ⟨rfl, rfl, rfl, rfl, rfl⟩, fun s hs => ?_⟩
  have hidle : unitsIdle s := by
    rcases hs with rfl | ⟨c, r, hr, rfl⟩
    · exact unitsIdle_reset
    · rw [clockEdge_of_rst c hr]
      exact unitsIdle_resetUnits r
  obtain ⟨hks, henc, hdec, hup⟩ := hidle
  simp [portValue, hks, henc, hdec, hup]

end Sys2Proof.Machine
end

section
/-! Accepting a start and completing (R100, R127, R128): the status of each unit after such an edge. -/

namespace Sys2Proof.Machine

/-- A start of UNPAD that fails the length check leaves it Idle (R100). -/
theorem clockEdge_up_of_lengthFails (c : Completes) {s : State} (hl : lengthFails s = true) :
    (clockEdge c s).up = .idle := by
  simp [clockEdge_up, hl]

section
variable {c : Completes} {s : State} (hr : s.ports.rst = false)
include hr

/-! ### The accepting edge -/

theorem clockEdge_ks_of_accept (hs : s.ports.ksStart = true) (hb : busyFlag s.ks = false) :
    (clockEdge c s).ks = .busy s.ports.ksKey := by
  simp [clockEdge_ks, hr, hs, unitEdge_accept _ _ _ hb]

theorem clockEdge_enc_of_accept (hs : s.ports.encStart = true) (hb : busyFlag s.enc = false) :
    (clockEdge c s).enc = .busy { block := s.ports.encPt, sk := s.ports.encSk } := by
  simp [clockEdge_enc, hr, hs, unitEdge_accept _ _ _ hb]

theorem clockEdge_dec_of_accept (hs : s.ports.decStart = true) (hb : busyFlag s.dec = false) :
    (clockEdge c s).dec = .busy { block := s.ports.decCt, sk := s.ports.decSk } := by
  simp [clockEdge_dec, hr, hs, unitEdge_accept _ _ _ hb]

theorem clockEdge_up_of_accept (hs : s.ports.upStart = true) (hb : busyFlag s.up = false)
    (hlen : (sampledMessage s.maxLen s.ports).len ≤ s.maxLen) :
    (clockEdge c s).up = .busy (sampledMessage s.maxLen s.ports) := by
  have hl : lengthFails s = false := by simp [lengthFails, hlen]
  simp [clockEdge_up, hr, hs, hl, unitEdge_accept _ _ _ hb]

/-! ### The completing edge -/

theorem clockEdge_ks_of_completes {key : BitVec 64} (hb : s.ks = .busy key) (hs : s.ports.ksStart = false)
    (hc : c.ks = true) : (clockEdge c s).ks = .done (keySchedule key) := by
  simp [clockEdge_ks, hr, hs, hb, hc]

theorem clockEdge_enc_of_completes {o : CipherOps} (hb : s.enc = .busy o) (hs : s.ports.encStart = false)
    (hc : c.enc = true) : (clockEdge c s).enc = .done (encResult o) := by
  simp [clockEdge_enc, hr, hs, hb, hc]

theorem clockEdge_dec_of_completes {o : CipherOps} (hb : s.dec = .busy o) (hs : s.ports.decStart = false)
    (hc : c.dec = true) : (clockEdge c s).dec = .done (decResult o) := by
  simp [clockEdge_dec, hr, hs, hb, hc]

theorem clockEdge_up_of_completes {m : Message} (hb : s.up = .busy m) (hs : s.ports.upStart = false)
    (hc : c.up = true) : (clockEdge c s).up = .done (unpadResult m) := by
  simp [clockEdge_up, hr, hs, hb, hc, lengthFails_quiet hs]

end

/-- Settles O33: a start makes a unit that is not Busy Busy, and adds StartWhileBusy to the record at one that is; UNPAD's
length check comes before it is accepted. -/
theorem startsAreAcceptedUnlessBusy : Obligations.StartsAreAcceptedUnlessBusy := by
  rintro c s t hr rfl
  have hfaults := clockEdge_faults c hr
  refine ⟨fun hs => ⟨fun hb => ?_, fun hb => ?_⟩, fun hs => ⟨fun hb => ?_, fun hb => ?_⟩,
    fun hs => ⟨fun hb => ?_, fun hb => ?_⟩, fun hs => ⟨fun hb => ?_, fun hb => ?_⟩⟩
  · have hks := clockEdge_ks_of_accept (c := c) hr hs hb
    simp [portValue, hks]
  · simp [hfaults, hs, hb]
  · have henc := clockEdge_enc_of_accept (c := c) hr hs hb
    simp [portValue, henc]
  · simp [hfaults, hs, hb]
  · have hdec := clockEdge_dec_of_accept (c := c) hr hs hb
    simp [portValue, hdec]
  · simp [hfaults, hs, hb]
  · by_cases hlt : s.maxLen < s.ports.upLen % 2 ^ lenW s.maxLen
    · have hl : lengthFails s = true := (lengthFails_iff s).mpr ⟨hs, hb, hlt⟩
      have hup := clockEdge_up_of_lengthFails c hl
      simp [portValue, hup, hfaults, hl, hlt, sampledMessage, lowBits]
    · have hup := clockEdge_up_of_accept (c := c) hr hs hb (Nat.not_lt.mp hlt)
      simp [portValue, hup, hlt, sampledMessage, lowBits]
  · simp [hfaults, hs, hb, lengthFails_of_busy hb]

/-- Settles O34: the result at the completing edge is the unit's function of the captured operands, which satisfies the
relation of the specification, and a Done unit shows it on its ports. -/
theorem busyUnitsCompleteWithTheirResult : Obligations.BusyUnitsCompleteWithTheirResult := by
  rintro c s t hr rfl
  refine ⟨fun key hb hs hc => ?_, fun o hb hs hc => ?_, fun o hb hs hc => ?_, fun m hb _ hs hc => ?_⟩
  · have hks := clockEdge_ks_of_completes hr hb hs hc
    exact ⟨keySchedule key, isKeySchedule_keySchedule key, hks, by simp [portValue, hks]⟩
  · have henc := clockEdge_enc_of_completes hr hb hs hc
    exact ⟨encResult o, (encryptBlockIsTheForwardRounds _ _ _).mpr rfl, henc, by simp [portValue, henc]⟩
  · have hdec := clockEdge_dec_of_completes hr hb hs hc
    exact ⟨decResult o, (decryptBlockIsTheInverseRounds _ _ _).mpr rfl, hdec, by simp [portValue, hdec]⟩
  · have hup := clockEdge_up_of_completes hr hb hs hc
    exact ⟨_, isUnpadLength_unpadLen m.bytes m.len, hup, by simp [portValue, hup, unpadResult]⟩

end Sys2Proof.Machine
end

section
/-! The four units seen as one kind of unit: what each does at edges without a start of it and without reset, so that what
follows from it is proved once and not once per unit (R128 to R131). -/

namespace Sys2Proof.Machine

/-- A unit of the block by its accessors, with the facts that make it a unit: where it stands in a state, on the ports, in
a schedule, in the free schedule and in the cycle-level model. -/
structure UnitView (Ops Res : Type) where
  status : State → UnitStatus Ops Res
  start : Ports → Bool
  completes : Completes → Bool
  result : Ops → Res
  /-- The unit's number in the free schedule. -/
  freeIndex : Nat
  age : CycleState → Nat
  extra : Latencies → Ops → Nat
  /-- Without a start only a Busy unit at its completing edge changes (R131). -/
  holds : ∀ {c s}, s.ports.rst = false → start s.ports = false →
    (busyFlag (status s) = false ∨ completes c = false) → status (clockEdge c s) = status s
  /-- A Busy unit completes at its completing edge (R128). -/
  finishes : ∀ {c s o}, s.ports.rst = false → status s = .busy o → start s.ports = false → completes c = true →
    status (clockEdge c s) = .done (result o)
  status_drivePorts : ∀ p s, status (drivePorts p s) = status s
  status_advance : ∀ rest s, status (s.advance rest) = status s
  completes_freeSchedule : ∀ n, completes (freeSchedule n) = freeCompletes freeIndex n
  completes_dueNow : ∀ lat c, completes (dueNow lat c) = completionDue (extra lat) (age c) (status c.machine)
  age_cycleEdge : ∀ lat p c, age (cycleEdge lat p c) = ageAfter (age c) (status c.machine)

def ksView : UnitView (BitVec 64) SubkeyArray where
  status := State.ks
  start := Ports.ksStart
  completes := Completes.ks
  result := keySchedule
  freeIndex := 0
  age := CycleState.ksAge
  extra := Latencies.ks
  holds hr := (quietUnitsKeepTheirStatus _ _ hr).1
  finishes hr := clockEdge_ks_of_completes hr
  status_drivePorts := drivePorts_ks
  status_advance := State.advance_ks
  completes_freeSchedule _ := rfl
  completes_dueNow _ _ := rfl
  age_cycleEdge _ _ _ := rfl

def encView : UnitView CipherOps (BitVec 32) where
  status := State.enc
  start := Ports.encStart
  completes := Completes.enc
  result := encResult
  freeIndex := 1
  age := CycleState.encAge
  extra := Latencies.enc
  holds hr := (quietUnitsKeepTheirStatus _ _ hr).2.1
  finishes hr := clockEdge_enc_of_completes hr
  status_drivePorts := drivePorts_enc
  status_advance := State.advance_enc
  completes_freeSchedule _ := rfl
  completes_dueNow _ _ := rfl
  age_cycleEdge _ _ _ := rfl

def decView : UnitView CipherOps (BitVec 32) where
  status := State.dec
  start := Ports.decStart
  completes := Completes.dec
  result := decResult
  freeIndex := 2
  age := CycleState.decAge
  extra := Latencies.dec
  holds hr := (quietUnitsKeepTheirStatus _ _ hr).2.2.1
  finishes hr := clockEdge_dec_of_completes hr
  status_drivePorts := drivePorts_dec
  status_advance := State.advance_dec
  completes_freeSchedule _ := rfl
  completes_dueNow _ _ := rfl
  age_cycleEdge _ _ _ := rfl

def upView : UnitView Message Message where
  status := State.up
  start := Ports.upStart
  completes := Completes.up
  result := unpadResult
  freeIndex := 3
  age := CycleState.upAge
  extra := Latencies.up
  holds hr := (quietUnitsKeepTheirStatus _ _ hr).2.2.2
  finishes hr := clockEdge_up_of_completes hr
  status_drivePorts := drivePorts_up
  status_advance := State.advance_up
  completes_freeSchedule _ := rfl
  completes_dueNow _ _ := rfl
  age_cycleEdge _ _ _ := rfl

section
variable {Ops Res : Type} (u : UnitView Ops Res)

/-- After an edge without a start at which it may complete, a unit is not Busy. -/
theorem UnitView.notBusy_of_completes {c : Completes} {s : State} (hr : s.ports.rst = false)
    (hs : u.start s.ports = false) (hc : u.completes c = true) : busyFlag (u.status (clockEdge c s)) = false := by
  cases hst : u.status s with
  | busy o => rw [u.finishes hr hst hs hc, busyFlag_done]
  | idle | done r =>
    have hb : busyFlag (u.status s) = false := by rw [hst]; rfl
    rwa [u.holds hr hs (.inl hb)]

/-- A Done unit holds its result at an edge without a start of it (R130). -/
theorem UnitView.done_clockEdge {c : Completes} {s : State} {r : Res} (hr : s.ports.rst = false)
    (hs : u.start s.ports = false) (h : u.status s = .done r) : u.status (clockEdge c s) = .done r := by
  have hb : busyFlag (u.status s) = false := by rw [h]; rfl
  exact (u.holds hr hs (.inl hb)).trans h

/-- An edge without a start keeps a unit on its operands. -/
theorem UnitView.onOperands_clockEdge {c : Completes} {s : State} {o : Ops} (hr : s.ports.rst = false)
    (hs : u.start s.ports = false) (h : onOperands u.result o (u.status s)) :
    onOperands u.result o (u.status (clockEdge c s)) := by
  rcases h with h | h
  · cases hc : u.completes c with
    | true => exact .inr (u.finishes hr h hs hc)
    | false => exact .inl ((u.holds hr hs (.inr hc)).trans h)
  · exact .inr (u.done_clockEdge hr hs h)

theorem UnitView.done_runEdges {es : List (Ports × Completes)} {s : State} {r : Res} (hr : ∀ e ∈ es, e.1.rst = false)
    (h : u.status s = .done r) (hs : ∀ e ∈ es, u.start e.1 = false) : u.status (runEdges es s) = .done r :=
  runEdges_keeps (P := fun t => u.status t = .done r)
    (fun e he t ht => u.done_clockEdge (hr e he) (hs e he) ((u.status_drivePorts e.1 t).trans ht)) h

end

/-- Settles O40: each edge of the list leaves a Done unit its result, so the list does. -/
theorem doneUnitsHoldTheirResult : Obligations.DoneUnitsHoldTheirResult := fun _ _ hr =>
  ⟨fun _ => ksView.done_runEdges hr, fun _ => encView.done_runEdges hr, fun _ => decView.done_runEdges hr,
    fun _ => upView.done_runEdges hr⟩

end Sys2Proof.Machine
end

section
/-! Weak fairness (R131): the agenda of every run is used up, and then the free schedule lets each unit complete again. -/

namespace Sys2Proof.Machine

/-! ### A host that has stopped -/

/-- What a step does once the host has stopped: an edge of the free schedule. -/
def stoppedStep (s : State) : State := clockEdge (freeSchedule (s.now + 1)) (s.advance [])

theorem step_eq_stoppedStep {s : State} (h : s.agenda = []) : step s = .next (stoppedStep s) := step_of_empty h

@[simp] theorem stoppedStep_agenda (s : State) : (stoppedStep s).agenda = [] := by simp [stoppedStep]

@[simp] theorem iterate_stoppedStep_ports (k : Nat) (s : State) : (stoppedStep^[k] s).ports = s.ports := by
  induction k with
  | zero => rfl
  | succ k ih => rw [Function.iterate_succ_apply', stoppedStep, clockEdge_ports, State.advance_ports, ih]

@[simp] theorem iterate_stoppedStep_now (k : Nat) (s : State) : (stoppedStep^[k] s).now = s.now + k := by
  induction k with
  | zero => rfl
  | succ k ih => rw [Function.iterate_succ_apply', stoppedStep, clockEdge_now, State.advance_now, ih, Nat.add_assoc]

theorem afterSteps_of_stopped (k : Nat) {s : State} (h : s.agenda = []) : afterSteps k s = some (stoppedStep^[k] s) := by
  induction k generalizing s with
  | zero => rfl
  | succ k ih =>
    simp only [afterSteps, step_eq_stoppedStep h]
    exact ih (stoppedStep_agenda s)

/-! ### Every run comes to where the host has stopped -/

section
variable {run : Nat → State} (hrun : IsRun run)
include hrun

theorem run_agenda (n k : Nat) : (run (n + k)).agenda = (run n).agenda.drop k := by
  induction k with
  | zero => rfl
  | succ k ih => rw [← Nat.add_assoc, step_agenda (hrun (n + k)), ih, List.tail_drop]

theorem run_agenda_nil (n : Nat) : (run (n + (run n).agenda.length)).agenda = [] := by
  rw [run_agenda hrun, List.drop_length]

theorem run_eq_iterate {n : Nat} (h : (run n).agenda = []) (k : Nat) : run (n + k) = stoppedStep^[k] (run n) := by
  induction k with
  | zero => rfl
  | succ k ih =>
    have hnil : (run (n + k)).agenda = [] := by rw [run_agenda hrun, h, List.drop_nil]
    have hnext := hrun (n + k)
    rw [step_eq_stoppedStep hnil, Host.Outcome.next.injEq] at hnext
    rw [Function.iterate_succ_apply', ← ih, hnext, Nat.add_assoc]

end

/-! ### The free schedule lets a unit complete -/

section
variable {Ops Res : Type} (u : UnitView Ops Res) {s : State} (hr : s.ports.rst = false) (hs : u.start s.ports = false)
include hr hs

/-- Once the host has stopped without a start of it, a unit is not Busy after some number of steps. -/
theorem UnitView.exists_notBusy : ∃ k, busyFlag (u.status (stoppedStep^[k] s)) = false := by
  obtain ⟨m, hm, hfree⟩ := freeCompletes_again u.freeIndex (s.now + 1)
  obtain ⟨j, rfl⟩ := Nat.exists_eq_add_of_le hm
  refine ⟨j + 1, ?_⟩
  rw [Function.iterate_succ_apply', stoppedStep]
  apply u.notBusy_of_completes
  · simpa using hr
  · simpa using hs
  · rwa [u.completes_freeSchedule, iterate_stoppedStep_now, Nat.add_right_comm]

theorem UnitView.onOperands_iterate {o : Ops} (h : u.status s = .busy o) (k : Nat) :
    onOperands u.result o (u.status (stoppedStep^[k] s)) := by
  induction k with
  | zero => exact .inl h
  | succ k ih =>
    rw [Function.iterate_succ_apply']
    apply u.onOperands_clockEdge
    · simpa using hr
    · simpa using hs
    · rwa [u.status_advance]

/-- Once the host has stopped, a Busy unit comes to be Done with the result of the operands it captured. -/
theorem UnitView.exists_done (hagenda : s.agenda = []) {o : Ops} (h : u.status s = .busy o) :
    ∃ k t, afterSteps k s = some t ∧ u.status t = .done (u.result o) := by
  obtain ⟨k, hk⟩ := u.exists_notBusy hr hs
  refine ⟨k, _, afterSteps_of_stopped k hagenda, ?_⟩
  rcases u.onOperands_iterate hr hs h k with hbusy | hdone
  · rw [hbusy, busyFlag_busy] at hk
    cases hk
  · exact hdone

end

/-- Every infinite run is weakly fair towards each unit: after its agenda it is the run of a host that has stopped. -/
theorem UnitView.fairTowards_run {Ops Res : Type} (u : UnitView Ops Res) {run : Nat → State} (hrun : IsRun run) :
    fairTowards u.status u.start run := by
  intro n
  have hnil := run_agenda_nil hrun n
  have hle : n ≤ n + (run n).agenda.length := Nat.le_add_right _ _
  generalize n + (run n).agenda.length = N at hnil hle
  cases hr : (run N).ports.rst with
  | true => exact ⟨N, hle, .inr (.inl hr)⟩
  | false =>
    cases hs : u.start (run N).ports with
    | true => exact ⟨N, hle, .inr (.inr hs)⟩
    | false =>
      obtain ⟨k, hk⟩ := u.exists_notBusy hr hs
      rw [← run_eq_iterate hrun hnil] at hk
      exact ⟨N + k, hle.trans (Nat.le_add_right N k), .inl hk⟩

/-- Settles O57: the free schedule lets each unit complete again after every step, once the agenda is used up. -/
theorem runsAreWeaklyFair : Obligations.RunsAreWeaklyFair := by
  refine ⟨fun run hrun => ?_, fun s hagenda hr => ?_⟩
  · exact ⟨ksView.fairTowards_run hrun, encView.fairTowards_run hrun, decView.fairTowards_run hrun,
      upView.fairTowards_run hrun⟩
  · exact ⟨fun _ hb hs => ksView.exists_done hr hs hagenda hb, fun _ hb hs => encView.exists_done hr hs hagenda hb,
      fun _ hb hs => decView.exists_done hr hs hagenda hb, fun _ hb hs => upView.exists_done hr hs hagenda hb⟩

end Sys2Proof.Machine
end

section
/-! The cycle-level model (R128, R131): a unit completes at the LAT_u-th edge after its accepting edge. -/

namespace Sys2Proof.Machine

section
variable {Ops Res : Type} (u : UnitView Ops Res) {lat : Latencies} {c : CycleState}

/-! ### One edge -/

section
variable {q : Ports} (hr : q.rst = false) (hs : u.start q = false)
include hr hs

/-- An edge at which no completion of it is due leaves a unit as it is. -/
theorem UnitView.cycleEdge_notDue (h : completionDue (u.extra lat) (u.age c) (u.status c.machine) = false) :
    u.status (cycleEdge lat q c).machine = u.status c.machine :=
  calc u.status (cycleEdge lat q c).machine
    _ = u.status (drivePorts q (c.machine.advance c.machine.agenda)) :=
      u.holds hr hs (.inr ((u.completes_dueNow lat c).trans h))
    _ = u.status c.machine := by rw [u.status_drivePorts, u.status_advance]

/-- A Busy unit whose latency has passed completes. -/
theorem UnitView.cycleEdge_due {o : Ops} (hb : u.status c.machine = .busy o) (h : u.extra lat o ≤ u.age c) :
    u.status (cycleEdge lat q c).machine = .done (u.result o) := by
  refine u.finishes hr ?_ hs ?_
  · rw [u.status_drivePorts, u.status_advance, hb]
  · simpa [u.completes_dueNow, hb, completionDue] using h

end

/-! ### Any number of edges -/

section
variable {ps : List Ports} (hr : ∀ q ∈ ps, q.rst = false) (hs : ∀ q ∈ ps, u.start q = false)
include hr hs

theorem UnitView.cycleRun_done {r : Res} (h : u.status c.machine = .done r) :
    u.status (cycleRun lat ps c).machine = .done r := by
  induction ps generalizing c with
  | nil => exact h
  | cons q ps ih =>
    rw [List.forall_mem_cons] at hr hs
    have hkept := u.cycleEdge_notDue (lat := lat) hr.1 hs.1 (by rw [h]; rfl)
    exact ih hr.2 hs.2 (hkept.trans h)

/-- A Busy unit of age at most LAT_u - 1 is Busy as long as its age is, and then Done. -/
theorem UnitView.cycleRun_busy {o : Ops} (hb : u.status c.machine = .busy o) (hage : u.age c ≤ u.extra lat o) :
    (u.age c + ps.length ≤ u.extra lat o → u.status (cycleRun lat ps c).machine = .busy o) ∧
      (u.extra lat o < u.age c + ps.length → u.status (cycleRun lat ps c).machine = .done (u.result o)) := by
  induction ps generalizing c with
  | nil => exact ⟨fun _ => hb, fun h => absurd h (Nat.not_lt.mpr hage)⟩
  | cons q ps ih =>
    rw [List.forall_mem_cons] at hr hs
    rw [List.length_cons]
    by_cases hdue : u.extra lat o ≤ u.age c
    · have hdone := u.cycleEdge_due hr.1 hs.1 hb hdue
      exact ⟨fun h => by omega, fun _ => u.cycleRun_done hr.2 hs.2 hdone⟩
    · have hkept := u.cycleEdge_notDue (lat := lat) (c := c) hr.1 hs.1 (by simpa [hb, completionDue] using hdue)
      have hnext : u.age (cycleEdge lat q c) = u.age c + 1 := by rw [u.age_cycleEdge, hb]; rfl
      have hrest := ih hr.2 hs.2 (hkept.trans hb) (by omega)
      rwa [hnext, Nat.add_right_comm] at hrest

/-- A unit that was accepted at an edge is Busy for LAT_u - 1 edges more, and Done from the LAT_u-th on. -/
theorem UnitView.cycleRun_accepted {p : Ports} {o : Ops} (hb : busyFlag (u.status c.machine) = false)
    
    (hacc : u.status (clockEdge (dueNow lat c) (drivePorts p (c.machine.advance c.machine.agenda))) = .busy o) :
    (ps.length ≤ u.extra lat o → u.status (cycleRun lat ps (cycleEdge lat p c)).machine = .busy o) ∧
      (u.extra lat o < ps.length →
        u.status (cycleRun lat ps (cycleEdge lat p c)).machine = .done (u.result o)) := by
  have hage : u.age (cycleEdge lat p c) = 0 := by
    rw [u.age_cycleEdge]
    cases hst : u.status c.machine with
    | busy o => rw [hst] at hb; cases hb
    | idle | done r => rfl
  have hrun := u.cycleRun_busy (lat := lat) hr hs hacc (hage ▸ Nat.zero_le _)
  rwa [hage, Nat.zero_add] at hrun

end

end

/-- Settles O58: the accepting edge makes the unit Busy with age 0, and each edge after it adds 1 to its age. -/
theorem completionIsAtTheLatencysEdge : Obligations.CompletionIsAtTheLatencysEdge := by
  intro lat c p ps hp hr
  refine ⟨fun hs hb hq => ?_, fun hs hb hq => ?_, fun hs hb hq => ?_, fun hs hb hq hlen => ?_⟩
  · exact ksView.cycleRun_accepted hr hq hb (clockEdge_ks_of_accept hp hs hb)
  · exact encView.cycleRun_accepted hr hq hb (clockEdge_enc_of_accept hp hs hb)
  · exact decView.cycleRun_accepted hr hq hb (clockEdge_dec_of_accept hp hs hb)
  · exact upView.cycleRun_accepted hr hq hb (clockEdge_up_of_accept hp hs hb hlen)

end Sys2Proof.Machine
end
